-- ==== Sys2Proof/Word.lean ====
section
/-! DEFINITION. The word types of the Q9 and their plainest arithmetic (R1, R2, R64).
Everything a test could show wrong (field selection, byte order, extension of odd widths) stands in
`Sys2Proof/Machine/Bits.lean`. -/

namespace Sys2Proof

/-- A byte. -/
abbrev Byte := BitVec 8
/-- The 64-bit word: an instruction word, a scalar register, a control register. -/
abbrev Word := BitVec 64
/-- A 6-bit field naming s0 to s63 (R169). -/
abbrev SReg := BitVec 6
/-- A 5-bit field naming v0 to v31, or s0 to s31 where the map says so (R169). -/
abbrev VReg := BitVec 5
/-- A 3-bit field naming m0 to m7. -/
abbrev MReg := BitVec 3
/-- A 3-bit field naming p0 to p7. -/
abbrev PReg := BitVec 3
/-- A 2-bit field naming ps0 to ps3. -/
abbrev LReg := BitVec 2
/-- A physical tile number 0 to 511, die × 128 + y × 16 + x (R8). -/
abbrev TileNo := BitVec 9
/-- A compute die 0 to 3. -/
abbrev DieNo := BitVec 2

/-- Sign extension to the 64-bit word (R169). -/
def sext64 {w : Nat} (x : BitVec w) : Word := x.signExtend 64
/-- Zero extension to the 64-bit word. -/
def zext64 {w : Nat} (x : BitVec w) : Word := x.zeroExtend 64

end Sys2Proof
end

