-- ==== Sys2Proof/Syntax.lean ====
section
/-! DEFINITION. The instruction words of the Q9 and the steps of its other agents, one constructor per row of
the opcode table.  A word's constructor holds its header (vote, delay, guard: R164) and the operand fields of its
format (R168) at their own widths; an event's constructor names the tile, die, context or datum it concerns. -/

namespace Sys2Proof

/-- The fields every instruction word carries beside opcode and payload (R164). -/
structure Hdr where
  /-- V, the vote bit. -/
  v : Bool
  /-- D, the delay. -/
  d : BitVec 10
  /-- PR, the guard predicate. -/
  pr : PReg
  /-- PN, 1 negates the guard. -/
  pn : Bool
deriving DecidableEq, Repr

/-- The header of an unguarded word with D = 0 and V = 0. -/
def Hdr.plain : Hdr := ⟨false, 0, 0, false⟩

/-- CMP conditions (R170, R312). -/
inductive Cond | eq | ne | lt | ge | ltu | geu
deriving DecidableEq, Repr

/-- Element types of a vector register, codes 0x0 to 0x7 (R66). -/
inductive ETy | f32 | bf16 | e4m3 | e5m2 | e2m1 | l6 | i8 | i32
deriving DecidableEq, Repr

/-- Atomic operations, codes 0 to 9 (R170). -/
inductive AOp | swap | add | and | or | xor | min | max | minu | maxu | fadd
deriving DecidableEq, Repr

/-- Access sizes of LD and ST (R170). -/
inductive Size | b | h | w | d
deriving DecidableEq, Repr

/-- Signedness of MULH (R347). -/
inductive MulhKind | ss | uu | su
deriving DecidableEq, Repr

/-- FENCE scopes (R322). -/
inductive Scope | engine | remote | host
deriving DecidableEq, Repr

/-- DRAIN paths (R319). -/
inductive DPath | sram | near | far | remote
deriving DecidableEq, Repr

/-- Fields NST can write (R355). -/
inductive NField | n | vl | flags | w | parent | prior | depth | fchild | ccount
deriving DecidableEq, Repr

/-- Paths of COPY and COPYM (R313). -/
inductive CPath | plain | f32 | bf16
deriving DecidableEq, Repr

/-- Element sizes of GATH and SCAT (R325). -/
inductive GSize | e4 | e8 | e16 | e32 | e64
deriving DecidableEq, Repr

/-- Format pairs of MMA, codes 0 to 7 (R173). -/
inductive Pair | e4m3e4m3 | e4m3e5m2 | e5m2e5m2 | e2m1e2m1 | e2m1e4m3 | l6l6 | i8i8 | bf16bf16
deriving DecidableEq, Repr

/-- Rounding codes of MDRAIN and MSTORE, 0 to 5 (R146). -/
inductive Rm | rne | rtz | rup | rdn | rna | dyn
deriving DecidableEq, Repr

/-- Operand source of an MMA: first vector register, or the scratchpad base register (R173). -/
inductive MSrc | vreg (r : VReg) | pad (r : SReg)
deriving DecidableEq, Repr

/-- Output of MSTORE: an element type or the raw image, code 8 (R343). -/
inductive OutTy | ty (t : ETy) | raw
deriving DecidableEq, Repr

/-- VCMP conditions (R389). -/
inductive VCond | eq | ne | lt | le | gt | ge | unord
deriving DecidableEq, Repr

/-- The operations of VMASK (R396). -/
inductive VMaskOp
  | and (a b : MReg) | or (a b : MReg) | xor (a b : MReg) | andn (a b : MReg)
  | not (a : MReg) | first (s : VReg) | ones
deriving DecidableEq, Repr

/-- MOV kinds (R342). -/
inductive MovKind
  | reg (d a : SReg) | fromPred (d : SReg) (n : PReg) | toPred (n : PReg) (a : SReg)
deriving DecidableEq, Repr

/-- The count of a LOOP: a register or an immediate (R171). -/
inductive LCount | reg (s : SReg) | imm (n : BitVec 23)
deriving DecidableEq, Repr

/-- Loop counters lc0 to lc2 (R171). -/
inductive LoopN | lc0 | lc1 | lc2
deriving DecidableEq, Repr

/-- Quantisation block lengths, codes 0 to 2 of BLK (R126, R401). -/
inductive QBlk | b16 | b32 | b64
deriving DecidableEq, Repr

/-- Outlier capacities, codes 0 to 2 of OCAP (R126, R401). -/
inductive QCap | c0 | c2 | c4
deriving DecidableEq, Repr

/-- Scope and operands of TLBI (R378). -/
inductive TlbiArg | ctx (a : SReg) | page (a b : SReg) | table (b : SReg)
deriving DecidableEq, Repr

/-- The fields of an MMA word other than its header (R173). -/
structure MmaF where
  acc : Bool
  a : MSrc
  b : MSrc
  k : SReg
  pair : Pair
  zero : Bool
  twin : Bool
deriving DecidableEq, Repr

/-- The fields of COPY and of the first word of COPYM (R313). -/
structure CopyF where
  d : SReg
  dst : SReg
  src : SReg
  len : SReg
  bar : SReg
  ch : BitVec 2
  path : CPath
  fut : Bool
deriving DecidableEq, Repr

/-- The fields of GATH and SCAT (R325). -/
structure GathF where
  d : SReg
  dst : SReg
  src : SReg
  idx : VReg
  bar : SReg
  ch : BitVec 2
  size : GSize
  fut : Bool
deriving DecidableEq, Repr

/-- The fields of an element-wise vector word: destination, sources, mask, type field (none = 0xF), and the one
function bit of `sub` (SAT or AR; R384). -/
structure VF where
  vd : VReg
  va : VReg
  vb : VReg
  vc : VReg
  mask : MReg
  ty : Option ETy
  f : Bool
deriving DecidableEq, Repr

/-- The fields of VLD, VST, VLDS and VSTS (R392). -/
structure VMemF where
  vd : VReg
  base : VReg
  stride : VReg
  mask : MReg
  ty : Option ETy
  disp : BitVec 10
deriving DecidableEq, Repr

/-- Who makes a host-side access: a host core, the management controller, a local privileged task on a tile, or
another device (R279). -/
inductive Writer | host | mc | task (t : TileNo) | peer (dev : BitVec 12)
deriving DecidableEq, Repr

/-- One access of a host core to the host physical map, or of PCIe virtual function `vf` + 1 at an offset of its BAR0 (R119,
R275, R276). -/
inductive HostReq
  | load (who : Writer) (addr : BitVec 48) (size : Size)
  | store (who : Writer) (addr : BitVec 48) (size : Size) (v : Word)
  | amo (who : Writer) (addr : BitVec 48) (op : AOp) (dbl : Bool) (v : Word)
  | cas (who : Writer) (addr : BitVec 48) (dbl : Bool) (expect new : Word)
  | vfLoad (vf : BitVec 8) (off : BitVec 26) (size : Size)
  | vfStore (vf : BitVec 8) (off : BitVec 26) (size : Size) (v : Word)
  /-- FetchAdd, or Swap. -/
  | vfAdd (vf : BitVec 8) (off : BitVec 26) (dbl : Bool) (v : Word)
  | vfSwap (vf : BitVec 8) (off : BitVec 26) (dbl : Bool) (v : Word)
  | vfCas (vf : BitVec 8) (off : BitVec 26) (expect new : Word)
deriving DecidableEq, Repr

/-- Messages of the seal quorum: a request served by this module as a peer, or a peer's answer to a request of this
module's Glaze engine (R284, R292). -/
inductive PeerMsg
  | serve (tenant c nb : Word) (reportOk : Bool)
  | answer (glaze : Nat) (peer : BitVec 3) (c nb : Word) (key : Bool)
deriving DecidableEq, Repr

/-- A transfer in progress: on a copy channel of a tile, or the running COPY packet `i` of a die (R195, R204). -/
inductive XferAt
  | chan (t : TileNo) (ch : BitVec 2)
  | packet (d : DieNo) (i : Nat)
deriving DecidableEq, Repr

/-- The operations and events of the module, one constructor per row of the opcode table. -/
inductive Instr
  -- scalar words
  | nop (d : BitVec 10)
  | add (h : Hdr) (d a b : SReg)
  | addImm (h : Hdr) (d a : SReg) (imm : BitVec 29)
  | sub (h : Hdr) (d a b : SReg)
  | mul (h : Hdr) (d a b : SReg)
  | mulh (h : Hdr) (d a b : SReg) (k : MulhKind)
  | div (h : Hdr) (d a b : SReg) (u : Bool)
  | rem (h : Hdr) (d a b : SReg) (u : Bool)
  | and (h : Hdr) (d a b : SReg)
  | andImm (h : Hdr) (d a : SReg) (imm : BitVec 29)
  | or (h : Hdr) (d a b : SReg)
  | orImm (h : Hdr) (d a : SReg) (imm : BitVec 29)
  | xor (h : Hdr) (d a b : SReg)
  | xorImm (h : Hdr) (d a : SReg) (imm : BitVec 29)
  | shl (h : Hdr) (d a b : SReg)
  | shlImm (h : Hdr) (d a : SReg) (c : BitVec 6)
  | shr (h : Hdr) (d a b : SReg)
  | shrImm (h : Hdr) (d a : SReg) (c : BitVec 6)
  | sar (h : Hdr) (d a b : SReg)
  | sarImm (h : Hdr) (d a : SReg) (c : BitVec 6)
  | min (h : Hdr) (d a b : SReg) (u : Bool)
  | minImm (h : Hdr) (d a : SReg) (imm : BitVec 29)
  | max (h : Hdr) (d a b : SReg) (u : Bool)
  | maxImm (h : Hdr) (d a : SReg) (imm : BitVec 29)
  | sel (h : Hdr) (d a b : SReg) (p : PReg)
  | cmp (h : Hdr) (c : Cond) (p : PReg) (a b : SReg)
  | cmpImm (h : Hdr) (c : Cond) (p : PReg) (a : SReg) (imm : BitVec 29)
  | popc (h : Hdr) (d a : SReg)
  | clz (h : Hdr) (d a : SReg)
  | bfx (h : Hdr) (d a : SReg) (lo wm1 : BitVec 6) (sx : Bool)
  | bfi (h : Hdr) (d a b : SReg) (lo wm1 : BitVec 6)
  | lea (h : Hdr) (d a b : SReg) (sh : BitVec 3) (disp : BitVec 20)
  | mov (h : Hdr) (k : MovKind)
  | li (h : Hdr) (d : SReg) (imm : BitVec 32) (u : Bool)
  | lih (h : Hdr) (d : SReg) (imm : BitVec 32)
  -- control flow
  | br (h : Hdr) (off : BitVec 32)
  | jmpRel (h : Hdr) (off : BitVec 32)
  | jmpReg (h : Hdr) (a : SReg)
  | call (h : Hdr) (link : SReg) (off : BitVec 32)
  | ret (h : Hdr) (link : SReg)
  | loop (h : Hdr) (n : LoopN) (c : LCount) (e : BitVec 9)
  | align (h : Hdr)
  | chunk (h : Hdr)
  | safept (h : Hdr) (map : BitVec 13)
  | exit (h : Hdr) (a : SReg) (n : BitVec 3)
  | waite (h : Hdr) (a : SReg) (mask : BitVec 3)
  | waiteEvent (t : TileNo)
  -- memory words
  | ld (h : Hdr) (d a b : SReg) (sz : Size) (sx : Bool) (disp : BitVec 19)
  | st (h : Hdr) (data a b : SReg) (sz : Size) (disp : BitVec 19)
  | lds (h : Hdr) (d a b : SReg) (disp : BitVec 19)
  | ldsPerform (t : TileNo)
  | stf (h : Hdr) (data a b : SReg) (disp : BitVec 19)
  | stfPerform (t : TileNo)
  | ste (h : Hdr) (a b : SReg) (disp : BitVec 19)
  | pref (h : Hdr) (a b : SReg) (disp : BitVec 19)
  | fence (h : Hdr) (sc : Scope)
  | fenceWaitSatisfied (t : TileNo)
  | drain (h : Hdr) (p : DPath)
  | drainWaitSatisfied (t : TileNo)
  | amo (h : Hdr) (d a b : SReg) (op : AOp) (dbl : Bool)
  | cas (h : Hdr) (d a b c : SReg) (dbl : Bool)
  | atomicPerform (t : TileNo)
  | red (h : Hdr) (a b : SReg) (op : AOp) (dbl : Bool)
  | farOpApply
  -- tasks and futures
  | cancel (h : Hdr) (d a : SReg)
  | cancelApply (d : DieNo)
  | repri (h : Hdr) (d a b c : SReg)
  | repriApply (d : DieNo)
  | freg (h : Hdr) (d a b : SReg)
  | fregPerform (t : TileNo)
  | fres (h : Hdr) (a b : SReg) (fail : Bool)
  | fresPerform (t : TileNo)
  | joinArrival
  -- nodes
  | nld (h : Hdr) (v : VReg) (a : SReg) (cm1 : BitVec 4)
  | nst (h : Hdr) (a b : SReg) (f : NField)
  | nalloc (h : Hdr) (d : SReg)
  | nallocPerform (t : TileNo)
  | nfree (h : Hdr) (a : SReg)
  | nvloss (h : Hdr) (a b : SReg)
  | nback (h : Hdr) (a b c : SReg) (alt : Bool)
  | walkNodeUpdate
  -- copies
  | copy (h : Hdr) (f : CopyF)
  | copym (h : Hdr) (f : CopyF) (m : MmaF)
  | gath (h : Hdr) (f : GathF)
  | scat (h : Hdr) (f : GathF)
  | tidw (h : Hdr) (a : SReg) (ch : BitVec 2)
  | tidwWaitSatisfied (t : TileNo)
  -- matrix words
  | mma (h : Hdr) (f : MmaF)
  | mzero (h : Hdr) (acc : Bool)
  | mdrain (h : Hdr) (acc : Bool) (vd : VReg) (ty : ETy) (rm : Rm)
  | mstore (h : Hdr) (acc : Bool) (a b : SReg) (ty : OutTy) (rm : Rm)
  | mtile (h : Hdr) (acc : Bool)
  -- vector words
  | vld (h : Hdr) (f : VMemF)
  | vst (h : Hdr) (f : VMemF)
  | vlds (h : Hdr) (f : VMemF)
  | vsts (h : Hdr) (f : VMemF)
  | vbcast (h : Hdr) (vd : VReg) (s : VReg) (mask : MReg) (ty : Option ETy)
  | vmovs (h : Hdr) (sd : VReg) (va : VReg) (ty : Option ETy) (idx : BitVec 10)
  | vshapeReg (h : Hdr) (s : VReg)
  | vshapeImm (h : Hdr) (rows : BitVec 6) (cols : BitVec 9) (ty : ETy)
  | vadd (h : Hdr) (f : VF)
  | vsub (h : Hdr) (f : VF)
  | vmul (h : Hdr) (f : VF)
  | vfma (h : Hdr) (f : VF)
  | vmin (h : Hdr) (f : VF)
  | vmax (h : Hdr) (f : VF)
  | vdiv (h : Hdr) (f : VF)
  | vabs (h : Hdr) (f : VF)
  | vneg (h : Hdr) (f : VF)
  | vsqrt (h : Hdr) (f : VF)
  | vrcp (h : Hdr) (f : VF)
  | vrsq (h : Hdr) (f : VF)
  | vexp2 (h : Hdr) (f : VF)
  | vlog2 (h : Hdr) (f : VF)
  | vtanh (h : Hdr) (f : VF)
  | vsigm (h : Hdr) (f : VF)
  | vcmp (h : Hdr) (md : MReg) (va vb : VReg) (mask : MReg) (ty : Option ETy) (c : VCond)
  | vsel (h : Hdr) (vd va vb : VReg) (ms : MReg) (mask : MReg) (ty : Option ETy)
  | vand (h : Hdr) (f : VF)
  | vor (h : Hdr) (f : VF)
  | vxor (h : Hdr) (f : VF)
  | vshl (h : Hdr) (f : VF)
  | vshr (h : Hdr) (f : VF)
  | viota (h : Hdr) (vd : VReg) (mask : MReg) (ty : Option ETy)
  | vcvt (h : Hdr) (vd va : VReg) (mask : MReg) (dty : ETy)
  | vquant (h : Hdr) (vd va vb vc : VReg) (dty : ETy) (blk : QBlk) (e4 : Bool) (cap : QCap)
  | vtrans (h : Hdr) (vd va : VReg) (ty : Option ETy)
  | vperm (h : Hdr) (vd va vb : VReg) (mask : MReg) (ty : Option ETy)
  | vred (h : Hdr) (n : LReg) (va : VReg) (mask : MReg) (ty : Option ETy) (clr : Bool)
  | vpsmov (h : Hdr) (vd : VReg) (n : LReg) (ty : Option ETy)
  | vscan (h : Hdr) (vd va : VReg) (n : LReg) (mask : MReg) (ty : Option ETy)
  | vselk (h : Hdr) (vd va : VReg) (sb : VReg) (t s : LReg) (k : BitVec 7) (mask : MReg) (ty : Option ETy)
  | vmergek (h : Hdr) (vd va vb : VReg) (t s : LReg) (k : BitVec 7)
  | vshort (h : Hdr) (vd va : VReg) (n : LReg) (mask : MReg) (ty : Option ETy)
  | vsamp (h : Hdr) (sd : VReg) (va vb : VReg) (sc : VReg)
  | vrng (h : Hdr) (vd : VReg) (s : VReg) (mask : MReg) (ty : Option ETy)
  | vmask (h : Hdr) (md : MReg) (op : VMaskOp) (ty : Option ETy)
  -- system words
  | trap (h : Hdr) (code : BitVec 16)
  | rte (h : Hdr)
  | ctlrd (h : Hdr) (d : SReg) (num : BitVec 12)
  | ctlwr (h : Hdr) (a : SReg) (num : BitVec 12)
  | tlbi (h : Hdr) (arg : TlbiArg)
  | tlbiPerform (t : TileNo)
  | seal (h : Hdr) (d a b : SReg)
  | unseal (h : Hdr) (d a b : SReg)
  | route (h : Hdr) (a b : SReg)
  | routePerform (t : TileNo)
  -- steps of the tile's fetch, vote, Understudy and commit machinery
  | wordDelivery (t : TileNo)
  | voteWriteback (t : TileNo)
  | understudyCommandMatch (t : TileNo)
  | commitRequest (t : TileNo)
  | localCommit (t : TileNo)
  | grantArrive (d : DieNo)
  | soloGrant
  | storeDrain
  | tileFree (t : TileNo)
  -- steps of the queue readers, the Repertory and the Chorus
  | launchPacket
  | copyPacket
  | ckptPacket
  | dispatch (d : DieNo)
  | programLoad (t : TileNo)
  | refill (d : DieNo)
  | ageingStep (d : DieNo)
  | deadlinePromote (d : DieNo)
  | deadlineLimit (d : DieNo)
  | renumberSweep (d : DieNo)
  | rebalancePeriod (d : DieNo)
  | rebalanceMoveDone (d : DieNo)
  | chorusArrival (d : DieNo)
  | chorusWindowClose (d : DieNo)
  | chorusListWrite (d : DieNo)
  | partitionShrink (t : TileNo)
  | pinMoveDone
  -- saves, traps and faults
  | saveComplete (t : TileNo)
  | watchdogSave (t : TileNo)
  | deferredFault (t : TileNo)
  | trapTake (t : TileNo)
  | asyncTrapTake (t : TileNo)
  -- steps of the matrix and copy engines
  | mmaExecute (t : TileNo)
  | mzeroExecute (t : TileNo)
  | mdrainExecute (t : TileNo)
  | mstoreExecute (t : TileNo)
  | mtileExecute (t : TileNo)
  | copyTransfer (t : TileNo) (ch : BitVec 2)
  | sectorLand (x : XferAt)
  | transferComplete (x : XferAt)
  -- gating, scrub, translation
  | gatingEntry (t : TileNo)
  | gatingComplete (t : TileNo)
  | ungateComplete (t : TileNo)
  | wakeMessage (t : TileNo)
  | scrubPass
  | translationWalk (t : TileNo) (va : BitVec 52)
  -- stores to registers with a behaviour of their own
  | cancelreq (d : DieNo) (v : Word)
  | chclsWrite (d : DieNo) (k : BitVec 5)
  | pagein (d : DieNo) (v : Word)
  | kvfree (d : DieNo) (v : Word)
  | poisonclr (d : DieNo) (v : Word)
  | migcmdStart (d : DieNo)
  | migrationFillDone
  | migcmdDone (d : DieNo)
  | migrationRetry
  | intr (t : TileNo) (v : Word)
  | wake (t : TileNo)
  | preq (t : TileNo) (v : Word)
  | owner (who : Writer) (expect v : Word)
  | ownerbrk (v : Word)
  | slotStageWrite (slot : BitVec 10) (off : BitVec 5) (v : Word) (who : Writer)
  | slotCommitWrite (slot : BitVec 10) (v : Word) (who : Writer)
  | pmapWrite (i : TileNo) (v : Word) (who : Writer)
  | portEnableWrite (p : BitVec 5) (v : Word) (who : Writer)
  | tenantRecordWrite (addr : BitVec 44) (v : Word) (who : Writer)
  | registerWrite (addr : BitVec 52) (v : Word) (who : Writer)
  -- the host side and the fabric
  | hostAccess (r : HostReq)
  | linkFrameReceive (p : BitVec 5) (bytes : List Byte) (crcOk : Bool)
  | linkDown (p : BitVec 5)
  | linkUp (p : BitVec 5)
  | packetForward
  | packetEject
  | fabricLoad
  | fabricStore
  | fabricNst
  | fabricRed
  | fabricNfree
  | fabricAmo
  | fabricCas
  | fabricWalk
  | fabricCopydata
  | fabricProbe
  | fabricReply
  | fabricRouteerr
  | requestTimeout
  -- sealing, power, reset, landings
  | sealOperation
  | unsealOperation
  | peerCounterRaise (m : PeerMsg)
  | peerQuery (m : PeerMsg)
  | quorumTimeout
  | powerSample (pmod : BitVec 32)
  | powerOnReset (failedStep : Option (BitVec 3)) (failedBanks : List (TileNo × BitVec 3)) (rootPort : Bool)
  | resultLanding (t : TileNo)
  | loadValueLands (t : TileNo)
deriving DecidableEq, Repr

end Sys2Proof
end

