-- ==== Sys2Proof/WellFormed.lean ====
section
/-! DEFINITION. Which instruction words are encodable: the checks of R164 to R173 on fields that the widths of
Syntax do not already make.  `Instr.problem` names the first check that fails. -/

namespace Sys2Proof

/-- Why a word is not an instruction (R165 to R174). -/
inductive Reject
  /-- An unassigned opcode (R174). -/
  | opcode
  /-- A field without meaning for the opcode is not zero (R169). -/
  | reserved
  /-- A function code the map does not list (R170). -/
  | function
  /-- V = 1 where R166 forbids it. -/
  | vote
  /-- A guard where R167 allows none. -/
  | guard
  /-- A register field out of range, or a register set passing the last register (R169, R173). -/
  | register
  /-- Operand fields that contradict each other (BFX, EXIT, VQUANT, VSELK). -/
  | operands
  /-- The word after a COPYM is not its MMA (R172). -/
  | followOn
deriving DecidableEq, Repr

/-- ALIGN, CHUNK, LOOP, SAFEPT, EXIT and RTE carry PR = 0 and PN = 0 (R167). -/
def Hdr.unguarded (h : Hdr) : Bool := h.pr == 0 && !h.pn

/-- The header of a word, none for an event. -/
def Instr.hdr : Instr → Option Hdr
  | .nop d => some ⟨false, d, 0, false⟩
  | .add h .. | .addImm h .. | .sub h .. | .mul h .. | .mulh h .. | .div h .. | .rem h .. | .and h .. | .andImm h ..
  | .or h .. | .orImm h .. | .xor h .. | .xorImm h .. | .shl h .. | .shlImm h .. | .shr h .. | .shrImm h ..
  | .sar h .. | .sarImm h .. | .min h .. | .minImm h .. | .max h .. | .maxImm h .. | .sel h .. | .cmp h ..
  | .cmpImm h .. | .popc h .. | .clz h .. | .bfx h .. | .bfi h .. | .lea h .. | .mov h .. | .li h .. | .lih h ..
  | .br h .. | .jmpRel h .. | .jmpReg h .. | .call h .. | .ret h .. | .loop h .. | .align h .. | .chunk h ..
  | .safept h .. | .exit h .. | .waite h .. | .ld h .. | .st h .. | .lds h .. | .stf h .. | .ste h .. | .pref h ..
  | .fence h .. | .drain h .. | .amo h .. | .cas h .. | .red h .. | .cancel h .. | .repri h .. | .freg h ..
  | .fres h .. | .nld h .. | .nst h .. | .nalloc h .. | .nfree h .. | .nvloss h .. | .nback h .. | .copy h ..
  | .copym h .. | .gath h .. | .scat h .. | .tidw h .. | .mma h .. | .mzero h .. | .mdrain h .. | .mstore h ..
  | .mtile h .. | .vld h .. | .vst h .. | .vlds h .. | .vsts h .. | .vbcast h .. | .vmovs h .. | .vshapeReg h ..
  | .vshapeImm h .. | .vadd h .. | .vsub h .. | .vmul h .. | .vfma h .. | .vmin h .. | .vmax h .. | .vdiv h ..
  | .vabs h .. | .vneg h .. | .vsqrt h .. | .vrcp h .. | .vrsq h .. | .vexp2 h .. | .vlog2 h .. | .vtanh h ..
  | .vsigm h .. | .vcmp h .. | .vsel h .. | .vand h .. | .vor h .. | .vxor h .. | .vshl h .. | .vshr h ..
  | .viota h .. | .vcvt h .. | .vquant h .. | .vtrans h .. | .vperm h .. | .vred h .. | .vpsmov h .. | .vscan h ..
  | .vselk h .. | .vmergek h .. | .vshort h .. | .vsamp h .. | .vrng h .. | .vmask h .. | .trap h .. | .rte h ..
  | .ctlrd h .. | .ctlwr h .. | .tlbi h .. | .seal h .. | .unseal h .. | .route h .. => some h
  | .waiteEvent .. | .ldsPerform .. | .stfPerform .. | .fenceWaitSatisfied .. | .drainWaitSatisfied ..
  | .atomicPerform .. | .farOpApply | .cancelApply .. | .repriApply .. | .fregPerform .. | .fresPerform ..
  | .joinArrival | .nallocPerform .. | .walkNodeUpdate | .tidwWaitSatisfied .. | .tlbiPerform ..
  | .routePerform .. | .wordDelivery .. | .voteWriteback .. | .understudyCommandMatch .. | .commitRequest ..
  | .localCommit .. | .grantArrive .. | .soloGrant | .storeDrain | .tileFree .. | .launchPacket | .copyPacket
  | .ckptPacket | .dispatch .. | .programLoad .. | .refill .. | .ageingStep .. | .deadlinePromote ..
  | .deadlineLimit .. | .renumberSweep .. | .rebalancePeriod .. | .rebalanceMoveDone .. | .chorusArrival ..
  | .chorusWindowClose .. | .chorusListWrite .. | .partitionShrink .. | .pinMoveDone | .saveComplete ..
  | .watchdogSave .. | .deferredFault .. | .trapTake .. | .asyncTrapTake .. | .mmaExecute .. | .mzeroExecute ..
  | .mdrainExecute .. | .mstoreExecute .. | .mtileExecute .. | .copyTransfer .. | .sectorLand ..
  | .transferComplete .. | .gatingEntry .. | .gatingComplete .. | .ungateComplete .. | .wakeMessage ..
  | .scrubPass | .translationWalk .. | .cancelreq .. | .chclsWrite .. | .pagein .. | .kvfree .. | .poisonclr ..
  | .migcmdStart .. | .migrationFillDone | .migcmdDone .. | .migrationRetry | .intr .. | .wake .. | .preq ..
  | .owner .. | .ownerbrk .. | .slotStageWrite .. | .slotCommitWrite .. | .pmapWrite .. | .portEnableWrite ..
  | .tenantRecordWrite .. | .registerWrite .. | .hostAccess .. | .linkFrameReceive .. | .linkDown .. | .linkUp ..
  | .packetForward | .packetEject | .fabricLoad | .fabricStore | .fabricNst | .fabricRed | .fabricNfree
  | .fabricAmo | .fabricCas | .fabricWalk | .fabricCopydata | .fabricProbe | .fabricReply | .fabricRouteerr
  | .requestTimeout | .sealOperation | .unsealOperation | .peerCounterRaise .. | .peerQuery .. | .quorumTimeout
  | .powerSample .. | .powerOnReset .. | .resultLanding .. | .loadValueLands .. => none

/-- A word of the instruction stream, as against a step of another agent. -/
def Instr.isWord (i : Instr) : Bool := i.hdr.isSome

/-- The opcodes whose words may carry V = 1 (R166). -/
def Instr.mayVote : Instr → Bool
  | .add .. | .addImm .. | .sub .. | .mul .. | .mulh .. | .div .. | .rem .. | .and .. | .andImm .. | .or .. | .orImm ..
  | .xor .. | .xorImm .. | .shl .. | .shlImm .. | .shr .. | .shrImm .. | .sar .. | .sarImm .. | .min .. | .minImm ..
  | .max .. | .maxImm .. | .sel .. | .cmp .. | .cmpImm .. | .popc .. | .clz .. | .bfx .. | .bfi .. | .lea .. | .mov ..
  | .li .. | .lih .. | .vbcast .. | .vmovs .. | .vadd .. | .vsub .. | .vmul .. | .vfma .. | .vmin .. | .vmax ..
  | .vdiv .. | .vabs .. | .vneg .. | .vsqrt .. | .vrcp .. | .vrsq .. | .vexp2 .. | .vlog2 .. | .vtanh .. | .vsigm ..
  | .vcmp .. | .vsel .. | .vand .. | .vor .. | .vxor .. | .vshl .. | .vshr .. | .viota .. | .vcvt .. | .vquant ..
  | .vtrans .. | .vperm .. | .vred .. | .vpsmov .. | .vscan .. | .vselk .. | .vmergek .. | .vshort .. | .vsamp ..
  | .vrng .. | .vmask .. => true
  | _ => false

/-- The words that must be unguarded (R167). -/
def Instr.mustBeUnguarded : Instr → Bool
  | .align .. | .chunk .. | .loop .. | .safept .. | .exit .. | .rte .. => true
  | _ => false

/-- Vector registers that the drain of a whole accumulator fills (R189). -/
def ETy.drainRegs : ETy → Nat
  | .f32 | .i32 => 16
  | .bf16 => 8
  | .e2m1 => 2
  | .e4m3 | .e5m2 | .l6 | .i8 => 4

/-- A scratchpad field of 63 has no pitch register (R173). -/
def MSrc.ok : MSrc → Bool
  | .vreg _ => true
  | .pad r => r != 63

def MmaF.ok (f : MmaF) : Bool := f.a.ok && f.b.ok

/-- lo + width must not pass 64 (R304). -/
def fieldFits (lo wm1 : BitVec 6) : Bool := lo.toNat + wm1.toNat + 1 ≤ 64

/-- The unary element-wise words leave vb and vc zero (R384). -/
def VF.unary (f : VF) : Bool := f.vb == 0 && f.vc == 0
/-- The binary element-wise words leave vc zero (R384). -/
def VF.binary (f : VF) : Bool := f.vc == 0

/-- The types VQUANT quantises to (R401). -/
def ETy.quantTarget : ETy → Bool
  | .e4m3 | .e5m2 | .e2m1 | .l6 | .i8 => true
  | .f32 | .bf16 | .i32 => false
/-- The types with an escape code, and so with outliers (R401). -/
def ETy.capTarget : ETy → Bool
  | .e2m1 | .l6 => true
  | _ => false

/-- The first check of the operand fields that fails, for one word (R165 to R173). -/
def Instr.operandProblem : Instr → Option Reject
  | .bfx _ _ _ lo w _ | .bfi _ _ _ _ lo w => if fieldFits lo w then none else some .operands
  | .loop _ _ _ e => if 1 ≤ e.toNat && e.toNat ≤ 256 then none else some .function
  | .exit _ a n =>
      if 4 < n.toNat then some .function
      else if n.toNat == 0 && a != 0 then some .operands
      else if 64 < a.toNat + n.toNat then some .register else none
  | .waite _ a m =>
      if m == 0 then some .function else if m.getLsbD 0 || a == 0 then none else some .reserved
  | .ld _ _ _ _ sz sx _ => if sx && sz == .d then some .function else none
  | .amo _ _ _ _ op dbl => if op == .fadd && dbl then some .function else none
  | .red _ _ _ op dbl => if op == .swap || (op == .fadd && dbl) then some .function else none
  | .copy _ f => if f.fut && f.bar == 0 then some .operands else none
  | .copym _ f m => if f.fut && f.bar == 0 then some .operands else if m.ok then none else some .followOn
  | .gath _ f | .scat _ f => if f.fut && f.bar == 0 then some .operands else none
  | .mma _ f => if f.ok then none else some .register
  | .mdrain _ _ vd ty _ => if vd.toNat + ty.drainRegs ≤ 32 then none else some .register
  | .vld _ f | .vst _ f => if f.stride == 0 then none else some .reserved
  | .vadd _ f | .vsub _ f | .vmul _ f | .vmin _ f | .vmax _ f | .vdiv _ f | .vshr _ f =>
      if f.binary then none else some .reserved
  | .vfma _ _ => none
  | .vand _ f | .vor _ f | .vxor _ f | .vshl _ f => if f.binary && !f.f then none else some .reserved
  | .vabs _ f | .vneg _ f => if f.unary then none else some .reserved
  | .vsqrt _ f | .vrcp _ f | .vrsq _ f | .vexp2 _ f | .vlog2 _ f | .vtanh _ f | .vsigm _ f =>
      if f.unary && !f.f then none else some .reserved
  | .vquant _ vd _ vb vc dty _ _ cap =>
      if !dty.quantTarget then some .function
      else if cap != .c0 && !dty.capTarget then some .function
      else if cap == .c0 && vc != 0 then some .reserved
      else if vd == vb || (cap != .c0 && (vc == vd || vc == vb)) then some .operands else none
  | .vselk _ _ _ _ t s k _ _ | .vmergek _ _ _ _ t s k =>
      if t == s then some .operands else if 1 ≤ k.toNat && k.toNat ≤ 64 then none else some .function
  | _ => none

/-- The first check that fails, none for a well-formed word and for every event. -/
def Instr.problem (i : Instr) : Option Reject :=
  match i.hdr with
  | none => none
  | some h =>
    if h.v && !i.mayVote then some .vote
    else if i.mustBeUnguarded && !h.unguarded then some .guard
    else i.operandProblem

/-- A well-formed instruction. -/
def Instr.wf (i : Instr) : Bool := i.problem.isNone

end Sys2Proof
end

