-- ==== Sys2Proof/Decode.lean ====
section
/-! DEFINITION. Decoding the 64-bit instruction word (R164 to R174), total on any word and rejecting by name, and
after it the encoder, written from the same tables. -/

namespace Sys2Proof

/-! ### Function codes (R170) -/

def Cond.ofCode (x : BitVec 3) : Option Cond :=
  match x with
  | 0 => some .eq | 1 => some .ne | 2 => some .lt | 3 => some .ge | 4 => some .ltu | 5 => some .geu | _ => none

def VCond.ofCode (x : BitVec 4) : Option VCond :=
  match x with
  | 0 => some .eq | 1 => some .ne | 2 => some .lt | 3 => some .le | 4 => some .gt | 5 => some .ge | 6 => some .unord
  | _ => none

/-- Element type codes 0x0 to 0x7 (R66). -/
def ETy.ofCode (x : BitVec 4) : Option ETy :=
  match x with
  | 0 => some .f32 | 1 => some .bf16 | 2 => some .e4m3 | 3 => some .e5m2 | 4 => some .e2m1 | 5 => some .l6
  | 6 => some .i8 | 7 => some .i32 | _ => none

/-- The type field of format V: a code of R66, or 0xF for none (R169). -/
def tyField (x : BitVec 4) : Option (Option ETy) :=
  if x == 15 then some none else (ETy.ofCode x).map some

def AOp.ofCode (x : BitVec 4) : Option AOp :=
  match x with
  | 0 => some .swap | 1 => some .add | 2 => some .and | 3 => some .or | 4 => some .xor | 5 => some .min
  | 6 => some .max | 7 => some .minu | 8 => some .maxu | 9 => some .fadd | _ => none

def Size.ofCode (x : BitVec 2) : Size :=
  match x with
  | 0 => .b | 1 => .h | 2 => .w | _ => .d

def MulhKind.ofCode (x : BitVec 2) : Option MulhKind :=
  match x with
  | 0 => some .ss | 1 => some .uu | 2 => some .su | _ => none

def Scope.ofCode (x : BitVec 2) : Option Scope :=
  match x with
  | 1 => some .engine | 2 => some .remote | 3 => some .host | _ => none

def DPath.ofCode (x : BitVec 3) : Option DPath :=
  match x with
  | 1 => some .sram | 2 => some .near | 3 => some .far | 4 => some .remote | _ => none

def NField.ofCode (x : BitVec 4) : Option NField :=
  match x with
  | 0 => some .n | 1 => some .vl | 2 => some .flags | 3 => some .w | 4 => some .parent | 5 => some .prior
  | 6 => some .depth | 7 => some .fchild | 8 => some .ccount | _ => none

def CPath.ofCode (x : BitVec 3) : Option CPath :=
  match x with
  | 0 => some .plain | 1 => some .f32 | 2 => some .bf16 | _ => none

def GSize.ofCode (x : BitVec 3) : Option GSize :=
  match x with
  | 0 => some .e4 | 1 => some .e8 | 2 => some .e16 | 3 => some .e32 | 4 => some .e64 | _ => none

def Pair.ofCode (x : BitVec 4) : Option Pair :=
  match x with
  | 0 => some .e4m3e4m3 | 1 => some .e4m3e5m2 | 2 => some .e5m2e5m2 | 3 => some .e2m1e2m1 | 4 => some .e2m1e4m3
  | 5 => some .l6l6 | 6 => some .i8i8 | 7 => some .bf16bf16 | _ => none

def Rm.ofCode (x : BitVec 3) : Option Rm :=
  match x with
  | 0 => some .rne | 1 => some .rtz | 2 => some .rup | 3 => some .rdn | 4 => some .rna | 5 => some .dyn | _ => none

def OutTy.ofCode (x : BitVec 4) : Option OutTy :=
  if x == 8 then some .raw else (ETy.ofCode x).map .ty

def LoopN.ofCode (x : BitVec 2) : Option LoopN :=
  match x with
  | 0 => some .lc0 | 1 => some .lc1 | 2 => some .lc2 | _ => none

def QBlk.ofCode (x : BitVec 2) : Option QBlk :=
  match x with
  | 0 => some .b16 | 1 => some .b32 | 2 => some .b64 | _ => none

def QCap.ofCode (x : BitVec 2) : Option QCap :=
  match x with
  | 0 => some .c0 | 1 => some .c2 | 2 => some .c4 | _ => none

/-! ### Fields -/

/-- `len` bits of the payload from bit `lo` (R168). -/
abbrev pf (p : BitVec 41) (lo len : Nat) : BitVec len := p.extractLsb' lo len

/-- V, D, PR and PN of a word (R164). -/
def Hdr.ofWord (w : Word) : Hdr :=
  ⟨w.getLsbD 63, w.extractLsb' 53 10, w.extractLsb' 42 3, w.getLsbD 41⟩

/-- The opcode of a word (R164). -/
def opOf (w : Word) : BitVec 8 := w.extractLsb' 45 8
/-- The payload of a word (R164). -/
def payloadOf (w : Word) : BitVec 41 := w.extractLsb' 0 41

/-- Accept when the reserved fields are zero (R169). -/
def okIf (c : Bool) (i : Instr) : Except Reject Instr := if c then .ok i else .error .reserved

/-- Go on with a function code, or reject it (R170). -/
def withCode {α : Type} (o : Option α) (k : α → Except Reject Instr) : Except Reject Instr :=
  match o with
  | some x => k x
  | none => .error .function

/-- A 6-bit field that names a vector register holds 0 to 31 (R169). -/
def vregOf (x : BitVec 6) : Option VReg := if x.toNat < 32 then some (x.truncate 5) else none

/-- Go on with a vector register, or reject it (R169). -/
def withVReg (x : BitVec 6) (k : VReg → Except Reject Instr) : Except Reject Instr :=
  match vregOf x with
  | some r => k r
  | none => .error .register

/-- Format A with d, a, b and F = 0. -/
def fmtAdab (p : BitVec 41) (k : SReg → SReg → SReg → Instr) : Except Reject Instr :=
  okIf (pf p 0 23 == 0) (k (pf p 35 6) (pf p 29 6) (pf p 23 6))

/-- Format I with d, a and imm29. -/
def fmtIda (p : BitVec 41) (k : SReg → SReg → BitVec 29 → Instr) : Except Reject Instr :=
  .ok (k (pf p 35 6) (pf p 29 6) (pf p 0 29))

/-- The immediate shifts: imm29[28:6] = 0. -/
def fmtISh (p : BitVec 41) (k : SReg → SReg → BitVec 6 → Instr) : Except Reject Instr :=
  okIf (pf p 6 23 == 0) (k (pf p 35 6) (pf p 29 6) (pf p 0 6))

/-- Scalar words, opcodes 0x01 to 0x16 (R170). -/
def decodeScalar (op : Nat) (h : Hdr) (p : BitVec 41) : Except Reject Instr :=
  match op with
  | 0x01 => fmtAdab p (.add h)
  | 0x02 => fmtAdab p (.sub h)
  | 0x03 => fmtAdab p (.mul h)
  | 0x04 => withCode (MulhKind.ofCode (pf p 0 2)) fun k =>
      okIf (pf p 2 21 == 0) (.mulh h (pf p 35 6) (pf p 29 6) (pf p 23 6) k)
  | 0x05 => okIf (pf p 1 22 == 0) (.div h (pf p 35 6) (pf p 29 6) (pf p 23 6) (p.getLsbD 0))
  | 0x06 => okIf (pf p 1 22 == 0) (.rem h (pf p 35 6) (pf p 29 6) (pf p 23 6) (p.getLsbD 0))
  | 0x07 => fmtAdab p (.and h)
  | 0x08 => fmtAdab p (.or h)
  | 0x09 => fmtAdab p (.xor h)
  | 0x0A => fmtAdab p (.shl h)
  | 0x0B => fmtAdab p (.shr h)
  | 0x0C => fmtAdab p (.sar h)
  | 0x0D => okIf (pf p 1 22 == 0) (.min h (pf p 35 6) (pf p 29 6) (pf p 23 6) (p.getLsbD 0))
  | 0x0E => okIf (pf p 1 22 == 0) (.max h (pf p 35 6) (pf p 29 6) (pf p 23 6) (p.getLsbD 0))
  | 0x0F => okIf (pf p 3 20 == 0) (.sel h (pf p 35 6) (pf p 29 6) (pf p 23 6) (pf p 0 3))
  | 0x10 => withCode (Cond.ofCode (pf p 38 3)) fun c =>
      okIf (pf p 0 23 == 0) (.cmp h c (pf p 35 3) (pf p 29 6) (pf p 23 6))
  | 0x11 => okIf (pf p 0 29 == 0) (.popc h (pf p 35 6) (pf p 29 6))
  | 0x12 => okIf (pf p 0 29 == 0) (.clz h (pf p 35 6) (pf p 29 6))
  | 0x13 => okIf (pf p 23 6 == 0 && pf p 13 10 == 0)
      (.bfx h (pf p 35 6) (pf p 29 6) (pf p 0 6) (pf p 6 6) (p.getLsbD 12))
  | 0x14 => okIf (pf p 12 11 == 0) (.bfi h (pf p 35 6) (pf p 29 6) (pf p 23 6) (pf p 0 6) (pf p 6 6))
  | 0x15 => .ok (.lea h (pf p 35 6) (pf p 29 6) (pf p 23 6) (pf p 0 3) (pf p 3 20))
  | 0x16 =>
      match pf p 0 2 with
      | 0 => okIf (pf p 2 27 == 0) (.mov h (.reg (pf p 35 6) (pf p 29 6)))
      | 1 => okIf (pf p 2 27 == 0 && pf p 32 3 == 0) (.mov h (.fromPred (pf p 35 6) (pf p 29 3)))
      | 2 => okIf (pf p 2 27 == 0 && pf p 38 3 == 0) (.mov h (.toPred (pf p 35 3) (pf p 29 6)))
      | _ => .error .function
  | _ => .error .opcode

/-- Immediate scalar words, opcodes 0x21 to 0x39 (R170). -/
def decodeImm (op : Nat) (h : Hdr) (p : BitVec 41) : Except Reject Instr :=
  match op with
  | 0x21 => fmtIda p (.addImm h)
  | 0x27 => fmtIda p (.andImm h)
  | 0x28 => fmtIda p (.orImm h)
  | 0x29 => fmtIda p (.xorImm h)
  | 0x2A => fmtISh p (.shlImm h)
  | 0x2B => fmtISh p (.shrImm h)
  | 0x2C => fmtISh p (.sarImm h)
  | 0x2D => fmtIda p (.minImm h)
  | 0x2E => fmtIda p (.maxImm h)
  | 0x30 => withCode (Cond.ofCode (pf p 38 3)) fun c => .ok (.cmpImm h c (pf p 35 3) (pf p 29 6) (pf p 0 29))
  | 0x38 =>
      match pf p 0 3 with
      | 0 => .ok (.li h (pf p 35 6) (pf p 3 32) false)
      | 1 => .ok (.li h (pf p 35 6) (pf p 3 32) true)
      | _ => .error .function
  | 0x39 => if pf p 0 3 == 0 then .ok (.lih h (pf p 35 6) (pf p 3 32)) else .error .function
  | _ => .error .opcode

/-- Control words, opcodes 0x40 to 0x49 (R170, R171). -/
def decodeControl (op : Nat) (h : Hdr) (p : BitVec 41) : Except Reject Instr :=
  match op with
  | 0x40 => okIf (pf p 35 6 == 0 && pf p 0 3 == 0) (.br h (pf p 3 32))
  | 0x41 =>
      match pf p 0 3 with
      | 0 => okIf (pf p 35 6 == 0) (.jmpRel h (pf p 3 32))
      | 1 => okIf (pf p 3 32 == 0) (.jmpReg h (pf p 35 6))
      | _ => .error .function
  | 0x42 => okIf (pf p 0 3 == 0) (.call h (pf p 35 6) (pf p 3 32))
  | 0x43 => okIf (pf p 0 35 == 0) (.ret h (pf p 35 6))
  | 0x44 => withCode (LoopN.ofCode (pf p 0 2)) fun n =>
      if p.getLsbD 2 then okIf (pf p 35 6 == 0) (.loop h n (.imm (pf p 3 23)) (pf p 26 9))
      else okIf (pf p 3 23 == 0) (.loop h n (.reg (pf p 35 6)) (pf p 26 9))
  | 0x45 => okIf (p == 0) (.align h)
  | 0x46 => okIf (p == 0) (.chunk h)
  | 0x47 => okIf (pf p 13 28 == 0) (.safept h (pf p 0 13))
  | 0x48 => okIf (pf p 35 6 == 0 && pf p 23 6 == 0 && pf p 3 20 == 0) (.exit h (pf p 29 6) (pf p 0 3))
  | 0x49 => okIf (pf p 35 6 == 0 && pf p 3 26 == 0) (.waite h (pf p 29 6) (pf p 0 3))
  | _ => .error .opcode

/-- Memory words, opcodes 0x50 to 0x5A (R170). -/
def decodeMemory (op : Nat) (h : Hdr) (p : BitVec 41) : Except Reject Instr :=
  match op with
  | 0x50 => okIf (!p.getLsbD 2)
      (.ld h (pf p 35 6) (pf p 29 6) (pf p 23 6) (Size.ofCode (pf p 0 2)) (p.getLsbD 3) (pf p 4 19))
  | 0x51 => okIf (pf p 2 2 == 0)
      (.st h (pf p 35 6) (pf p 29 6) (pf p 23 6) (Size.ofCode (pf p 0 2)) (pf p 4 19))
  | 0x52 => okIf (pf p 0 4 == 0) (.lds h (pf p 35 6) (pf p 29 6) (pf p 23 6) (pf p 4 19))
  | 0x53 => okIf (pf p 0 4 == 0) (.stf h (pf p 35 6) (pf p 29 6) (pf p 23 6) (pf p 4 19))
  | 0x54 => okIf (pf p 35 6 == 0 && pf p 0 4 == 0) (.ste h (pf p 29 6) (pf p 23 6) (pf p 4 19))
  | 0x55 => okIf (pf p 35 6 == 0 && pf p 0 4 == 0) (.pref h (pf p 29 6) (pf p 23 6) (pf p 4 19))
  | 0x56 => withCode (Scope.ofCode (pf p 0 2)) fun s => okIf (pf p 2 39 == 0) (.fence h s)
  | 0x57 => withCode (DPath.ofCode (pf p 0 3)) fun q => okIf (pf p 3 38 == 0) (.drain h q)
  | 0x58 => withCode (AOp.ofCode (pf p 0 4)) fun o =>
      okIf (pf p 5 18 == 0) (.amo h (pf p 35 6) (pf p 29 6) (pf p 23 6) o (p.getLsbD 4))
  | 0x59 => okIf (pf p 1 16 == 0) (.cas h (pf p 35 6) (pf p 29 6) (pf p 23 6) (pf p 17 6) (p.getLsbD 0))
  | 0x5A => withCode (AOp.ofCode (pf p 0 4)) fun o =>
      okIf (pf p 35 6 == 0 && pf p 5 18 == 0) (.red h (pf p 29 6) (pf p 23 6) o (p.getLsbD 4))
  | _ => .error .opcode

/-- Task, future and node words, opcodes 0x60 to 0x69 (R170). -/
def decodeTask (op : Nat) (h : Hdr) (p : BitVec 41) : Except Reject Instr :=
  match op with
  | 0x60 => okIf (pf p 0 29 == 0) (.cancel h (pf p 35 6) (pf p 29 6))
  | 0x61 => okIf (pf p 0 17 == 0) (.repri h (pf p 35 6) (pf p 29 6) (pf p 23 6) (pf p 17 6))
  | 0x62 => fmtAdab p (.freg h)
  | 0x63 => okIf (pf p 35 6 == 0 && pf p 1 22 == 0) (.fres h (pf p 29 6) (pf p 23 6) (p.getLsbD 0))
  | 0x64 => withVReg (pf p 35 6) fun v => okIf (pf p 4 25 == 0) (.nld h v (pf p 29 6) (pf p 0 4))
  | 0x65 => withCode (NField.ofCode (pf p 0 4)) fun f =>
      okIf (pf p 35 6 == 0 && pf p 4 19 == 0) (.nst h (pf p 29 6) (pf p 23 6) f)
  | 0x66 => okIf (pf p 0 35 == 0) (.nalloc h (pf p 35 6))
  | 0x67 => okIf (pf p 35 6 == 0 && pf p 0 29 == 0) (.nfree h (pf p 29 6))
  | 0x68 => okIf (pf p 35 6 == 0 && pf p 0 23 == 0) (.nvloss h (pf p 29 6) (pf p 23 6))
  | 0x69 => okIf (pf p 35 6 == 0 && pf p 1 16 == 0)
      (.nback h (pf p 29 6) (pf p 23 6) (pf p 17 6) (p.getLsbD 0))
  | _ => .error .opcode

/-- The fields of COPY and COPYM (R313). -/
def copyFields (p : BitVec 41) (path : CPath) : CopyF :=
  ⟨pf p 35 6, pf p 29 6, pf p 23 6, pf p 17 6, pf p 11 6, pf p 9 2, path, p.getLsbD 0⟩

/-- The fields of GATH and SCAT (R325). -/
def gathFields (p : BitVec 41) (idx : VReg) (size : GSize) : GathF :=
  ⟨pf p 35 6, pf p 29 6, pf p 23 6, idx, pf p 11 6, pf p 9 2, size, p.getLsbD 0⟩

/-- One operand field of an MMA by its source bit (R173). -/
def msrcOf (pad : Bool) (x : BitVec 6) : Option MSrc :=
  if pad then some (.pad x) else (vregOf x).map .vreg

/-- The fields of an MMA word (R173). -/
def mmaFields (p : BitVec 41) : Except Reject MmaF :=
  match Pair.ofCode (pf p 18 4) with
  | none => .error .function
  | some pair =>
    match msrcOf (p.getLsbD 17) (pf p 34 6), msrcOf (p.getLsbD 16) (pf p 28 6) with
    | some a, some b =>
        if pf p 0 14 == 0 then .ok ⟨p.getLsbD 40, a, b, pf p 22 6, pair, p.getLsbD 15, p.getLsbD 14⟩
        else .error .reserved
    | _, _ => .error .register

/-- The follow-on command in the word after a COPYM: an MMA with V, D, PR and PN zero that breaks no rule
(R172). -/
def followOn (next : Option Word) : Except Reject MmaF :=
  match next with
  | none => .error .followOn
  | some w =>
    if Hdr.ofWord w == Hdr.plain && opOf w == 0x78 then
      match mmaFields (payloadOf w) with
      | .ok f => if f.ok then .ok f else .error .followOn
      | .error _ => .error .followOn
    else .error .followOn

/-- Copy words, opcodes 0x70 to 0x74 (R170, R172). -/
def decodeCopy (op : Nat) (h : Hdr) (p : BitVec 41) (next : Option Word) : Except Reject Instr :=
  match op with
  | 0x70 => withCode (CPath.ofCode (pf p 6 3)) fun c => okIf (pf p 1 5 == 0) (.copy h (copyFields p c))
  | 0x71 => withCode (CPath.ofCode (pf p 6 3)) fun c =>
      match followOn next with
      | .ok m => okIf (pf p 1 5 == 0) (.copym h (copyFields p c) m)
      | .error e => .error e
  | 0x72 => withCode (GSize.ofCode (pf p 6 3)) fun z => withVReg (pf p 17 6) fun v =>
      okIf (pf p 1 5 == 0) (.gath h (gathFields p v z))
  | 0x73 => withCode (GSize.ofCode (pf p 6 3)) fun z => withVReg (pf p 17 6) fun v =>
      okIf (pf p 1 5 == 0) (.scat h (gathFields p v z))
  | 0x74 => okIf (pf p 35 6 == 0 && pf p 2 27 == 0) (.tidw h (pf p 29 6) (pf p 0 2))
  | _ => .error .opcode

/-- Matrix words, opcodes 0x78 to 0x7C (R170, R173). -/
def decodeMatrix (op : Nat) (h : Hdr) (p : BitVec 41) : Except Reject Instr :=
  match op with
  | 0x78 =>
      match mmaFields p with
      | .ok f => .ok (.mma h f)
      | .error e => .error e
  | 0x79 => okIf (pf p 0 40 == 0) (.mzero h (p.getLsbD 40))
  | 0x7A => withCode (ETy.ofCode (pf p 18 4)) fun t => withCode (Rm.ofCode (pf p 11 3)) fun r =>
      withVReg (pf p 34 6) fun v =>
        okIf (pf p 22 12 == 0 && pf p 14 4 == 0 && pf p 0 11 == 0) (.mdrain h (p.getLsbD 40) v t r)
  | 0x7B => withCode (OutTy.ofCode (pf p 18 4)) fun t => withCode (Rm.ofCode (pf p 11 3)) fun r =>
      okIf (pf p 22 6 == 0 && pf p 14 4 == 0 && pf p 0 11 == 0)
        (.mstore h (p.getLsbD 40) (pf p 34 6) (pf p 28 6) t r)
  | 0x7C => okIf (pf p 0 40 == 0) (.mtile h (p.getLsbD 40))
  | _ => .error .opcode

/-- Go on with the type field (R169). -/
def withTy (p : BitVec 41) (k : Option ETy → Except Reject Instr) : Except Reject Instr :=
  withCode (tyField (pf p 14 4)) k

/-- The fields of VLD, VST, VLDS and VSTS (R392). -/
def decodeVMem (p : BitVec 41) (k : VMemF → Instr) : Except Reject Instr :=
  withTy p fun ty =>
    okIf (pf p 21 5 == 0 && pf p 10 4 == 0)
      (k ⟨pf p 36 5, pf p 31 5, pf p 26 5, pf p 18 3, ty, pf p 0 10⟩)

/-- The fields of an element-wise word (R384): sub[3:1] and mod are zero. -/
def decodeVF (p : BitVec 41) (k : VF → Instr) : Except Reject Instr :=
  withTy p fun ty =>
    okIf (pf p 11 3 == 0 && pf p 0 10 == 0)
      (k ⟨pf p 36 5, pf p 31 5, pf p 26 5, pf p 21 5, pf p 18 3, ty, p.getLsbD 10⟩)

/-- Vector words, opcodes 0x80 to 0x86 (R170, R388, R392, R398, R409). -/
def decodeVector (op : Nat) (h : Hdr) (p : BitVec 41) : Except Reject Instr :=
  match op with
  | 0x80 => decodeVMem p (.vld h)
  | 0x81 => decodeVMem p (.vst h)
  | 0x82 => decodeVMem p (.vlds h)
  | 0x83 => decodeVMem p (.vsts h)
  | 0x84 => withTy p fun ty => okIf (pf p 21 10 == 0 && pf p 0 14 == 0)
      (.vbcast h (pf p 36 5) (pf p 31 5) (pf p 18 3) ty)
  | 0x85 => withTy p fun ty => okIf (pf p 18 13 == 0 && pf p 10 4 == 0)
      (.vmovs h (pf p 36 5) (pf p 31 5) ty (pf p 0 10))
  | 0x86 =>
      if p.getLsbD 10 then
        withCode (ETy.ofCode (pf p 14 4)) fun t =>
          okIf (pf p 31 10 == 0 && pf p 18 7 == 0 && pf p 11 3 == 0 && pf p 9 1 == 0)
            (.vshapeImm h (pf p 25 6) (pf p 0 9) t)
      else okIf (pf p 36 5 == 0 && pf p 0 31 == 0) (.vshapeReg h (pf p 31 5))
  | _ => .error .opcode

/-- Element-wise vector words, opcodes 0x88 to 0x9E without VCMP and VSEL (R170, R384). -/
def decodeElem (op : Nat) (h : Hdr) (p : BitVec 41) : Except Reject Instr :=
  match op with
  | 0x88 => decodeVF p (.vadd h)
  | 0x89 => decodeVF p (.vsub h)
  | 0x8A => decodeVF p (.vmul h)
  | 0x8B => decodeVF p (.vfma h)
  | 0x8C => decodeVF p (.vmin h)
  | 0x8D => decodeVF p (.vmax h)
  | 0x8E => decodeVF p (.vabs h)
  | 0x8F => decodeVF p (.vneg h)
  | 0x90 => decodeVF p (.vrcp h)
  | 0x91 => decodeVF p (.vrsq h)
  | 0x92 => decodeVF p (.vexp2 h)
  | 0x93 => decodeVF p (.vlog2 h)
  | 0x94 => decodeVF p (.vtanh h)
  | 0x95 => decodeVF p (.vsigm h)
  | 0x96 => decodeVF p (.vdiv h)
  | 0x97 => decodeVF p (.vsqrt h)
  | 0x9A => decodeVF p (.vand h)
  | 0x9B => decodeVF p (.vor h)
  | 0x9C => decodeVF p (.vxor h)
  | 0x9D => decodeVF p (.vshl h)
  | 0x9E => decodeVF p (.vshr h)
  | _ => .error .opcode

/-- The operations of VMASK (R396). -/
def vmaskOp (p : BitVec 41) : Except Reject VMaskOp :=
  let a : MReg := pf p 31 3
  let b : MReg := pf p 26 3
  let aOk := pf p 34 2 == 0
  let bOk := pf p 29 2 == 0
  let b0 := pf p 26 5 == 0
  let pick (c : Bool) (o : VMaskOp) : Except Reject VMaskOp := if c then .ok o else .error .reserved
  match pf p 10 4 with
  | 0 => pick (aOk && bOk) (.and a b)
  | 1 => pick (aOk && bOk) (.or a b)
  | 2 => pick (aOk && bOk) (.xor a b)
  | 3 => pick (aOk && bOk) (.andn a b)
  | 4 => pick (aOk && b0) (.not a)
  | 5 => pick b0 (.first (pf p 31 5))
  | 6 => pick (b0 && pf p 31 5 == 0) .ones
  | _ => .error .function

/-- The remaining vector datapath words, opcodes 0x98 to 0xAC (R170). -/
def decodeVMisc (op : Nat) (h : Hdr) (p : BitVec 41) : Except Reject Instr :=
  match op with
  | 0x98 => withTy p fun ty => withCode (VCond.ofCode (pf p 10 4)) fun c =>
      okIf (pf p 39 2 == 0 && pf p 21 5 == 0 && pf p 0 10 == 0)
        (.vcmp h (pf p 36 3) (pf p 31 5) (pf p 26 5) (pf p 18 3) ty c)
  | 0x99 => withTy p fun ty => okIf (pf p 24 2 == 0 && pf p 0 14 == 0)
      (.vsel h (pf p 36 5) (pf p 31 5) (pf p 26 5) (pf p 21 3) (pf p 18 3) ty)
  | 0x9F => withTy p fun ty => okIf (pf p 21 15 == 0 && pf p 0 14 == 0) (.viota h (pf p 36 5) (pf p 18 3) ty)
  | 0xA0 => withCode (ETy.ofCode (pf p 14 4)) fun t => okIf (pf p 21 10 == 0 && pf p 0 14 == 0)
      (.vcvt h (pf p 36 5) (pf p 31 5) (pf p 18 3) t)
  | 0xA1 => withCode (ETy.ofCode (pf p 14 4)) fun t => withCode (QBlk.ofCode (pf p 0 2)) fun b =>
      withCode (QCap.ofCode (pf p 3 2)) fun c => okIf (pf p 18 3 == 0 && pf p 10 4 == 0 && pf p 5 5 == 0)
        (.vquant h (pf p 36 5) (pf p 31 5) (pf p 26 5) (pf p 21 5) t b (p.getLsbD 2) c)
  | 0xA2 => withTy p fun ty => okIf (pf p 18 13 == 0 && pf p 0 14 == 0) (.vtrans h (pf p 36 5) (pf p 31 5) ty)
  | 0xA3 => withTy p fun ty => okIf (pf p 21 5 == 0 && pf p 0 14 == 0)
      (.vperm h (pf p 36 5) (pf p 31 5) (pf p 26 5) (pf p 18 3) ty)
  | 0xA4 => withTy p fun ty => okIf (pf p 38 3 == 0 && pf p 21 10 == 0 && pf p 11 3 == 0 && pf p 0 10 == 0)
      (.vred h (pf p 36 2) (pf p 31 5) (pf p 18 3) ty (p.getLsbD 10))
  | 0xA5 => withTy p fun ty =>
      if p.getLsbD 0 == ty.isNone then
        okIf (pf p 33 3 == 0 && pf p 18 13 == 0 && pf p 1 13 == 0) (.vpsmov h (pf p 36 5) (pf p 31 2) ty)
      else .error .function
  | 0xA6 => withTy p fun ty => okIf (pf p 26 5 == 0 && pf p 23 3 == 0 && pf p 0 14 == 0)
      (.vscan h (pf p 36 5) (pf p 31 5) (pf p 21 2) (pf p 18 3) ty)
  | 0xA7 => withTy p fun ty => okIf (pf p 25 1 == 0 && pf p 7 7 == 0)
      (.vselk h (pf p 36 5) (pf p 31 5) (pf p 26 5) (pf p 21 2) (pf p 23 2) (pf p 0 7) (pf p 18 3) ty)
  | 0xA8 => okIf (pf p 25 1 == 0 && pf p 18 3 == 0 && pf p 14 4 == 15 && pf p 7 7 == 0)
      (.vmergek h (pf p 36 5) (pf p 31 5) (pf p 26 5) (pf p 21 2) (pf p 23 2) (pf p 0 7))
  | 0xA9 => withTy p fun ty => okIf (pf p 23 8 == 0 && pf p 0 14 == 0)
      (.vshort h (pf p 36 5) (pf p 31 5) (pf p 21 2) (pf p 18 3) ty)
  | 0xAA => okIf (pf p 18 3 == 0 && pf p 14 4 == 15 && pf p 0 14 == 0)
      (.vsamp h (pf p 36 5) (pf p 31 5) (pf p 26 5) (pf p 21 5))
  | 0xAB => withTy p fun ty => okIf (pf p 21 10 == 0 && pf p 0 14 == 0)
      (.vrng h (pf p 36 5) (pf p 31 5) (pf p 18 3) ty)
  | 0xAC => withTy p fun ty =>
      match vmaskOp p with
      | .ok o => okIf (pf p 39 2 == 0 && pf p 18 8 == 0 && pf p 0 10 == 0) (.vmask h (pf p 36 3) o ty)
      | .error e => .error e
  | _ => .error .opcode

/-- System words, opcodes 0xC0 to 0xC7 (R170). -/
def decodeSystem (op : Nat) (h : Hdr) (p : BitVec 41) : Except Reject Instr :=
  match op with
  | 0xC0 => okIf (pf p 16 25 == 0) (.trap h (pf p 0 16))
  | 0xC1 => okIf (p == 0) (.rte h)
  | 0xC2 => okIf (pf p 29 6 == 0 && pf p 0 17 == 0) (.ctlrd h (pf p 35 6) (pf p 17 12))
  | 0xC3 => okIf (pf p 35 6 == 0 && pf p 0 17 == 0) (.ctlwr h (pf p 29 6) (pf p 17 12))
  | 0xC4 =>
      match pf p 0 2 with
      | 0 => okIf (pf p 35 6 == 0 && pf p 2 27 == 0) (.tlbi h (.ctx (pf p 29 6)))
      | 1 => okIf (pf p 35 6 == 0 && pf p 2 21 == 0) (.tlbi h (.page (pf p 29 6) (pf p 23 6)))
      | 2 => okIf (pf p 29 12 == 0 && pf p 2 21 == 0) (.tlbi h (.table (pf p 23 6)))
      | _ => .error .function
  | 0xC5 => fmtAdab p (.seal h)
  | 0xC6 => fmtAdab p (.unseal h)
  | 0xC7 => okIf (pf p 35 6 == 0 && pf p 0 23 == 0) (.route h (pf p 29 6) (pf p 23 6))
  | _ => .error .opcode

/-- The word by its opcode, before the checks of V, the guard and the operand fields. -/
def decodeFields (w : Word) (next : Option Word) : Except Reject Instr :=
  let op := (opOf w).toNat
  let h := Hdr.ofWord w
  let p := payloadOf w
  if op == 0 then
    if h.v || h.pr != 0 || h.pn || p != 0 then .error .reserved else .ok (.nop h.d)
  else if op < 0x17 then decodeScalar op h p
  else if op < 0x40 then decodeImm op h p
  else if op < 0x50 then decodeControl op h p
  else if op < 0x60 then decodeMemory op h p
  else if op < 0x70 then decodeTask op h p
  else if op < 0x78 then decodeCopy op h p next
  else if op < 0x80 then decodeMatrix op h p
  else if op < 0x88 then decodeVector op h p
  else if op < 0x98 || (0x9A ≤ op && op < 0x9F) then decodeElem op h p
  else if op < 0xC0 then decodeVMisc op h p
  else decodeSystem op h p

/-- Decode the word `w`; `next` is the word after it in the image, which only a COPYM reads (R172). -/
def decode (w : Word) (next : Option Word) : Except Reject Instr :=
  match decodeFields w next with
  | .error e => .error e
  | .ok i =>
    match i.problem with
    | some e => .error e
    | none => .ok i

/-- The second word of a COPYM is no branch target when the two words form a valid pair (R172). -/
def isCopymPair (w next : Word) : Bool :=
  opOf w == 0x71 && (decode w (some next)).isOk

/-- Decoding as the opcode table numbers an instruction's bits: bit 0 is bit 0 of the first 64-bit word, the second
word (of a COPYM) is bits 127 to 64. -/
def decodeTableWord (_nbits w : Nat) : Option Instr :=
  (decode (BitVec.ofNat 64 w) (some (BitVec.ofNat 64 (w / 2 ^ 64)))).toOption

/-! ### The encoder -/

def Cond.code : Cond → BitVec 3
  | .eq => 0 | .ne => 1 | .lt => 2 | .ge => 3 | .ltu => 4 | .geu => 5

def VCond.code : VCond → BitVec 4
  | .eq => 0 | .ne => 1 | .lt => 2 | .le => 3 | .gt => 4 | .ge => 5 | .unord => 6

def ETy.code : ETy → BitVec 4
  | .f32 => 0 | .bf16 => 1 | .e4m3 => 2 | .e5m2 => 3 | .e2m1 => 4 | .l6 => 5 | .i8 => 6 | .i32 => 7

/-- The type field of an optional type (R169). -/
def tyCode : Option ETy → BitVec 4
  | none => 15
  | some t => t.code

def AOp.code : AOp → BitVec 4
  | .swap => 0 | .add => 1 | .and => 2 | .or => 3 | .xor => 4 | .min => 5 | .max => 6 | .minu => 7 | .maxu => 8
  | .fadd => 9

def Size.code : Size → BitVec 2
  | .b => 0 | .h => 1 | .w => 2 | .d => 3

def MulhKind.code : MulhKind → BitVec 2
  | .ss => 0 | .uu => 1 | .su => 2

def Scope.code : Scope → BitVec 2
  | .engine => 1 | .remote => 2 | .host => 3

def DPath.code : DPath → BitVec 3
  | .sram => 1 | .near => 2 | .far => 3 | .remote => 4

def NField.code : NField → BitVec 4
  | .n => 0 | .vl => 1 | .flags => 2 | .w => 3 | .parent => 4 | .prior => 5 | .depth => 6 | .fchild => 7
  | .ccount => 8

def CPath.code : CPath → BitVec 3
  | .plain => 0 | .f32 => 1 | .bf16 => 2

def GSize.code : GSize → BitVec 3
  | .e4 => 0 | .e8 => 1 | .e16 => 2 | .e32 => 3 | .e64 => 4

def Pair.code : Pair → BitVec 4
  | .e4m3e4m3 => 0 | .e4m3e5m2 => 1 | .e5m2e5m2 => 2 | .e2m1e2m1 => 3 | .e2m1e4m3 => 4 | .l6l6 => 5 | .i8i8 => 6
  | .bf16bf16 => 7

def Rm.code : Rm → BitVec 3
  | .rne => 0 | .rtz => 1 | .rup => 2 | .rdn => 3 | .rna => 4 | .dyn => 5

def OutTy.code : OutTy → BitVec 4
  | .ty t => t.code
  | .raw => 8

def LoopN.code : LoopN → BitVec 2
  | .lc0 => 0 | .lc1 => 1 | .lc2 => 2

def QBlk.code : QBlk → BitVec 2
  | .b16 => 0 | .b32 => 1 | .b64 => 2

def QCap.code : QCap → BitVec 2
  | .c0 => 0 | .c2 => 1 | .c4 => 2

/-- One bit. -/
abbrev bit (b : Bool) : BitVec 1 := BitVec.ofBool b

/-- A word from header, opcode and payload (R164). -/
def mkWord (h : Hdr) (op : BitVec 8) (p : BitVec 41) : Word :=
  bit h.v ++ h.d ++ op ++ h.pr ++ bit h.pn ++ p

/-- Format A (R168). -/
def encA (d a b : BitVec 6) (f : BitVec 23) : BitVec 41 := d ++ a ++ b ++ f
/-- Format I. -/
def encI (d a : BitVec 6) (imm : BitVec 29) : BitVec 41 := d ++ a ++ imm
/-- Format L. -/
def encL (d : BitVec 6) (imm : BitVec 32) (kind : BitVec 3) : BitVec 41 := d ++ imm ++ kind
/-- Format B. -/
def encB (link : BitVec 6) (off : BitVec 32) (sub : BitVec 3) : BitVec 41 := link ++ off ++ sub
/-- Format V. -/
def encV (vd va vb vc : BitVec 5) (mask : BitVec 3) (ty sub : BitVec 4) (mod : BitVec 10) : BitVec 41 :=
  vd ++ va ++ vb ++ vc ++ mask ++ ty ++ sub ++ mod
/-- Format M; `rest` is [10:0]. -/
def encM (acc : Bool) (a b k : BitVec 6) (fmt : BitVec 4) (asrc bsrc zero twin : Bool) (rm : BitVec 3) : BitVec 41 :=
  bit acc ++ a ++ b ++ k ++ fmt ++ bit asrc ++ bit bsrc ++ bit zero ++ bit twin ++ rm ++ (0 : BitVec 11)
/-- Format C. -/
def encC (d dst src len bar : BitVec 6) (ch : BitVec 2) (path : BitVec 3) (flags : BitVec 6) : BitVec 41 :=
  d ++ dst ++ src ++ len ++ bar ++ ch ++ path ++ flags
/-- Format N. -/
def encN (d a b c : BitVec 6) (f : BitVec 17) : BitVec 41 := d ++ a ++ b ++ c ++ f
/-- Format X. -/
def encX (d a : BitVec 6) (num : BitVec 12) (f : BitVec 17) : BitVec 41 := d ++ a ++ num ++ f

/-- The field of an MMA operand. -/
def MSrc.field : MSrc → BitVec 6
  | .vreg r => r.zeroExtend 6
  | .pad r => r
/-- The source bit of an MMA operand. -/
def MSrc.isPad : MSrc → Bool
  | .vreg _ => false
  | .pad _ => true

/-- The payload of COPY and COPYM. -/
def CopyF.enc (f : CopyF) : BitVec 41 :=
  encC f.d f.dst f.src f.len f.bar f.ch f.path.code ((0 : BitVec 5) ++ bit f.fut)
/-- The payload of GATH and SCAT. -/
def GathF.enc (f : GathF) : BitVec 41 :=
  encC f.d f.dst f.src (f.idx.zeroExtend 6) f.bar f.ch f.size.code ((0 : BitVec 5) ++ bit f.fut)
/-- The payload of MMA. -/
def MmaF.enc (f : MmaF) : BitVec 41 :=
  encM f.acc f.a.field f.b.field f.k f.pair.code f.a.isPad f.b.isPad f.zero f.twin 0
/-- The payload of a vector memory word. -/
def VMemF.enc (f : VMemF) : BitVec 41 := encV f.vd f.base f.stride 0 f.mask (tyCode f.ty) 0 f.disp
/-- The payload of an element-wise word. -/
def VF.enc (f : VF) : BitVec 41 :=
  encV f.vd f.va f.vb f.vc f.mask (tyCode f.ty) ((0 : BitVec 3) ++ bit f.f) 0

/-- F of LD: disp, sign-extend, size. -/
def ldF (sz : Size) (sx : Bool) (disp : BitVec 19) : BitVec 23 := disp ++ bit sx ++ (0 : BitVec 1) ++ sz.code
/-- F with a displacement and [3:0] zero. -/
def dispF (disp : BitVec 19) : BitVec 23 := disp ++ (0 : BitVec 4)

/-- The payload of MOV (R342). -/
def MovKind.enc : MovKind → BitVec 41
  | .reg d a => encA d a 0 0
  | .fromPred d n => encA d ((0 : BitVec 3) ++ n) 0 1
  | .toPred n a => encA ((0 : BitVec 3) ++ n) a 0 2

/-- The payload of LOOP (R171). -/
def loopEnc (n : LoopN) (c : LCount) (e : BitVec 9) : BitVec 41 :=
  match c with
  | .imm k => encB 0 (e ++ k) ((1 : BitVec 1) ++ n.code)
  | .reg s => encB s (e ++ (0 : BitVec 23)) ((0 : BitVec 1) ++ n.code)

/-- The payload of TLBI (R378). -/
def TlbiArg.enc : TlbiArg → BitVec 41
  | .ctx a => encA 0 a 0 0
  | .page a b => encA 0 a b 1
  | .table b => encA 0 0 b 2

/-- The payload of VMASK (R396). -/
def vmaskEnc (md : MReg) (o : VMaskOp) (ty : Option ETy) : BitVec 41 :=
  let m (x : MReg) : BitVec 5 := (0 : BitVec 2) ++ x
  match o with
  | .and a b => encV (m md) (m a) (m b) 0 0 (tyCode ty) 0 0
  | .or a b => encV (m md) (m a) (m b) 0 0 (tyCode ty) 1 0
  | .xor a b => encV (m md) (m a) (m b) 0 0 (tyCode ty) 2 0
  | .andn a b => encV (m md) (m a) (m b) 0 0 (tyCode ty) 3 0
  | .not a => encV (m md) (m a) 0 0 0 (tyCode ty) 4 0
  | .first s => encV (m md) s 0 0 0 (tyCode ty) 5 0
  | .ones => encV (m md) 0 0 0 0 (tyCode ty) 6 0

/-- The opcode and payload of a word other than the follow-on of COPYM; none for an event. -/
def Instr.enc : Instr → Option (BitVec 8 × BitVec 41)
  | .nop _ => some (0x00, 0)
  | .add _ d a b => some (0x01, encA d a b 0)
  | .addImm _ d a i => some (0x21, encI d a i)
  | .sub _ d a b => some (0x02, encA d a b 0)
  | .mul _ d a b => some (0x03, encA d a b 0)
  | .mulh _ d a b k => some (0x04, encA d a b ((0 : BitVec 21) ++ k.code))
  | .div _ d a b u => some (0x05, encA d a b ((0 : BitVec 22) ++ bit u))
  | .rem _ d a b u => some (0x06, encA d a b ((0 : BitVec 22) ++ bit u))
  | .and _ d a b => some (0x07, encA d a b 0)
  | .andImm _ d a i => some (0x27, encI d a i)
  | .or _ d a b => some (0x08, encA d a b 0)
  | .orImm _ d a i => some (0x28, encI d a i)
  | .xor _ d a b => some (0x09, encA d a b 0)
  | .xorImm _ d a i => some (0x29, encI d a i)
  | .shl _ d a b => some (0x0A, encA d a b 0)
  | .shlImm _ d a c => some (0x2A, encI d a ((0 : BitVec 23) ++ c))
  | .shr _ d a b => some (0x0B, encA d a b 0)
  | .shrImm _ d a c => some (0x2B, encI d a ((0 : BitVec 23) ++ c))
  | .sar _ d a b => some (0x0C, encA d a b 0)
  | .sarImm _ d a c => some (0x2C, encI d a ((0 : BitVec 23) ++ c))
  | .min _ d a b u => some (0x0D, encA d a b ((0 : BitVec 22) ++ bit u))
  | .minImm _ d a i => some (0x2D, encI d a i)
  | .max _ d a b u => some (0x0E, encA d a b ((0 : BitVec 22) ++ bit u))
  | .maxImm _ d a i => some (0x2E, encI d a i)
  | .sel _ d a b p => some (0x0F, encA d a b ((0 : BitVec 20) ++ p))
  | .cmp _ c p a b => some (0x10, encA (c.code ++ p) a b 0)
  | .cmpImm _ c p a i => some (0x30, encI (c.code ++ p) a i)
  | .popc _ d a => some (0x11, encA d a 0 0)
  | .clz _ d a => some (0x12, encA d a 0 0)
  | .bfx _ d a lo w sx => some (0x13, encA d a 0 ((0 : BitVec 10) ++ bit sx ++ w ++ lo))
  | .bfi _ d a b lo w => some (0x14, encA d a b ((0 : BitVec 11) ++ w ++ lo))
  | .lea _ d a b sh disp => some (0x15, encA d a b (disp ++ sh))
  | .mov _ k => some (0x16, k.enc)
  | .li _ d i u => some (0x38, encL d i ((0 : BitVec 2) ++ bit u))
  | .lih _ d i => some (0x39, encL d i 0)
  | .br _ o => some (0x40, encB 0 o 0)
  | .jmpRel _ o => some (0x41, encB 0 o 0)
  | .jmpReg _ a => some (0x41, encB a 0 1)
  | .call _ l o => some (0x42, encB l o 0)
  | .ret _ l => some (0x43, encB l 0 0)
  | .loop _ n c e => some (0x44, loopEnc n c e)
  | .align _ => some (0x45, 0)
  | .chunk _ => some (0x46, 0)
  | .safept _ m => some (0x47, encI 0 0 ((0 : BitVec 16) ++ m))
  | .exit _ a n => some (0x48, encA 0 a 0 ((0 : BitVec 20) ++ n))
  | .waite _ a m => some (0x49, encI 0 a ((0 : BitVec 26) ++ m))
  | .ld _ d a b sz sx disp => some (0x50, encA d a b (ldF sz sx disp))
  | .st _ d a b sz disp => some (0x51, encA d a b (ldF sz false disp))
  | .lds _ d a b disp => some (0x52, encA d a b (dispF disp))
  | .stf _ d a b disp => some (0x53, encA d a b (dispF disp))
  | .ste _ a b disp => some (0x54, encA 0 a b (dispF disp))
  | .pref _ a b disp => some (0x55, encA 0 a b (dispF disp))
  | .fence _ s => some (0x56, encA 0 0 0 ((0 : BitVec 21) ++ s.code))
  | .drain _ q => some (0x57, encA 0 0 0 ((0 : BitVec 20) ++ q.code))
  | .amo _ d a b o z => some (0x58, encA d a b ((0 : BitVec 18) ++ bit z ++ o.code))
  | .cas _ d a b c z => some (0x59, encN d a b c ((0 : BitVec 16) ++ bit z))
  | .red _ a b o z => some (0x5A, encA 0 a b ((0 : BitVec 18) ++ bit z ++ o.code))
  | .cancel _ d a => some (0x60, encA d a 0 0)
  | .repri _ d a b c => some (0x61, encN d a b c 0)
  | .freg _ d a b => some (0x62, encA d a b 0)
  | .fres _ a b f => some (0x63, encA 0 a b ((0 : BitVec 22) ++ bit f))
  | .nld _ v a c => some (0x64, encN (v.zeroExtend 6) a 0 0 ((0 : BitVec 13) ++ c))
  | .nst _ a b f => some (0x65, encN 0 a b 0 ((0 : BitVec 13) ++ f.code))
  | .nalloc _ d => some (0x66, encA d 0 0 0)
  | .nfree _ a => some (0x67, encA 0 a 0 0)
  | .nvloss _ a b => some (0x68, encN 0 a b 0 0)
  | .nback _ a b c alt => some (0x69, encN 0 a b c ((0 : BitVec 16) ++ bit alt))
  | .copy _ f => some (0x70, f.enc)
  | .copym _ f _ => some (0x71, f.enc)
  | .gath _ f => some (0x72, f.enc)
  | .scat _ f => some (0x73, f.enc)
  | .tidw _ a c => some (0x74, encA 0 a 0 ((0 : BitVec 21) ++ c))
  | .mma _ f => some (0x78, f.enc)
  | .mzero _ acc => some (0x79, encM acc 0 0 0 0 false false false false 0)
  | .mdrain _ acc v t r => some (0x7A, encM acc (v.zeroExtend 6) 0 0 t.code false false false false r.code)
  | .mstore _ acc a b t r => some (0x7B, encM acc a b 0 t.code false false false false r.code)
  | .mtile _ acc => some (0x7C, encM acc 0 0 0 0 false false false false 0)
  | .vld _ f => some (0x80, f.enc)
  | .vst _ f => some (0x81, f.enc)
  | .vlds _ f => some (0x82, f.enc)
  | .vsts _ f => some (0x83, f.enc)
  | .vbcast _ vd s m ty => some (0x84, encV vd s 0 0 m (tyCode ty) 0 0)
  | .vmovs _ sd va ty i => some (0x85, encV sd va 0 0 0 (tyCode ty) 0 i)
  | .vshapeReg _ s => some (0x86, encV 0 s 0 0 0 0 0 0)
  | .vshapeImm _ r c ty =>
      some (0x86, (0 : BitVec 10) ++ r ++ (0 : BitVec 7) ++ ty.code ++ (1 : BitVec 4) ++ (0 : BitVec 1) ++ c)
  | .vadd _ f => some (0x88, f.enc)
  | .vsub _ f => some (0x89, f.enc)
  | .vmul _ f => some (0x8A, f.enc)
  | .vfma _ f => some (0x8B, f.enc)
  | .vmin _ f => some (0x8C, f.enc)
  | .vmax _ f => some (0x8D, f.enc)
  | .vabs _ f => some (0x8E, f.enc)
  | .vneg _ f => some (0x8F, f.enc)
  | .vrcp _ f => some (0x90, f.enc)
  | .vrsq _ f => some (0x91, f.enc)
  | .vexp2 _ f => some (0x92, f.enc)
  | .vlog2 _ f => some (0x93, f.enc)
  | .vtanh _ f => some (0x94, f.enc)
  | .vsigm _ f => some (0x95, f.enc)
  | .vdiv _ f => some (0x96, f.enc)
  | .vsqrt _ f => some (0x97, f.enc)
  | .vcmp _ md va vb m ty c => some (0x98, encV ((0 : BitVec 2) ++ md) va vb 0 m (tyCode ty) c.code 0)
  | .vsel _ vd va vb ms m ty => some (0x99, encV vd va vb ((0 : BitVec 2) ++ ms) m (tyCode ty) 0 0)
  | .vand _ f => some (0x9A, f.enc)
  | .vor _ f => some (0x9B, f.enc)
  | .vxor _ f => some (0x9C, f.enc)
  | .vshl _ f => some (0x9D, f.enc)
  | .vshr _ f => some (0x9E, f.enc)
  | .viota _ vd m ty => some (0x9F, encV vd 0 0 0 m (tyCode ty) 0 0)
  | .vcvt _ vd va m t => some (0xA0, encV vd va 0 0 m t.code 0 0)
  | .vquant _ vd va vb vc t b e4 c =>
      some (0xA1, encV vd va vb vc 0 t.code 0 ((0 : BitVec 5) ++ c.code ++ bit e4 ++ b.code))
  | .vtrans _ vd va ty => some (0xA2, encV vd va 0 0 0 (tyCode ty) 0 0)
  | .vperm _ vd va vb m ty => some (0xA3, encV vd va vb 0 m (tyCode ty) 0 0)
  | .vred _ n va m ty clr =>
      some (0xA4, encV ((0 : BitVec 3) ++ n) va 0 0 m (tyCode ty) ((0 : BitVec 3) ++ bit clr) 0)
  | .vpsmov _ vd n ty =>
      some (0xA5, encV vd ((0 : BitVec 3) ++ n) 0 0 0 (tyCode ty) 0 ((0 : BitVec 9) ++ bit ty.isNone))
  | .vscan _ vd va n m ty => some (0xA6, encV vd va 0 ((0 : BitVec 3) ++ n) m (tyCode ty) 0 0)
  | .vselk _ vd va sb t s k m ty =>
      some (0xA7, encV vd va sb ((0 : BitVec 1) ++ s ++ t) m (tyCode ty) 0 ((0 : BitVec 3) ++ k))
  | .vmergek _ vd va vb t s k =>
      some (0xA8, encV vd va vb ((0 : BitVec 1) ++ s ++ t) 0 15 0 ((0 : BitVec 3) ++ k))
  | .vshort _ vd va n m ty => some (0xA9, encV vd va 0 ((0 : BitVec 3) ++ n) m (tyCode ty) 0 0)
  | .vsamp _ sd va vb sc => some (0xAA, encV sd va vb sc 0 15 0 0)
  | .vrng _ vd s m ty => some (0xAB, encV vd s 0 0 m (tyCode ty) 0 0)
  | .vmask _ md o ty => some (0xAC, vmaskEnc md o ty)
  | .trap _ c => some (0xC0, encI 0 0 ((0 : BitVec 13) ++ c))
  | .rte _ => some (0xC1, 0)
  | .ctlrd _ d n => some (0xC2, encX d 0 n 0)
  | .ctlwr _ a n => some (0xC3, encX 0 a n 0)
  | .tlbi _ arg => some (0xC4, arg.enc)
  | .seal _ d a b => some (0xC5, encA d a b 0)
  | .unseal _ d a b => some (0xC6, encA d a b 0)
  | .route _ a b => some (0xC7, encA 0 a b 0)
  | _ => none

/-- The word after the first that an instruction carries: the follow-on MMA of a COPYM (R172). -/
def Instr.encNext : Instr → Option Word
  | .copym _ _ m => some (mkWord Hdr.plain 0x78 m.enc)
  | _ => none

/-- The first word of an instruction; none for an event. -/
def encode (i : Instr) : Option Word :=
  match i.hdr, i.enc with
  | some h, some (op, p) => some (mkWord h op p)
  | _, _ => none

end Sys2Proof
end

