-- ==== Sys2Proof/Config.lean ====
section
/-! DEFINITION. What an implementation fixes and the spec leaves open: free values (constants with no body, so that
nothing can be proved of their value) and the model's few named choices.  Each is a log entry. -/

namespace Sys2Proof.Config

/-- The latency of an interlocked access beyond one cycle, for each value of the counter `State.free` (R75 states
none).  DESIGN CHOICE, log 7. -/
opaque latency : Nat → BitVec 8

/-- Whether an access that a held translation serves uses the held version (true) or the version in memory (false),
for each value of the counter (R132: at the device's choice).  DESIGN CHOICE, log 8. -/
opaque useHeld : Nat → Bool

/-- Whether a TLBI squashes an open chunk that used no dropped translation, by counter and tile (R133: the device's
choice).  DESIGN CHOICE, log 8. -/
opaque tlbiSquash : Nat → Nat → Bool

/-- The time of a program load, in cycles beyond one, by counter (R55 states no bound).  DESIGN CHOICE, log 7. -/
opaque loadTime : Nat → BitVec 16

/-- The die power and die temperature counters as sampled, by counter and by die (R296 names the counters and not
their readings).  DESIGN CHOICE, log 5. -/
opaque dieSensor : Nat → Nat → BitVec 32

/-- A fresh random nonce base of the Glaze engine, by counter (R290).  DESIGN CHOICE, log 9. -/
opaque nonce : Nat → Word

/-- Whether the far operation at the head of another queue is applied before this one, by counter (R116, R212: no
order between different homes).  DESIGN CHOICE, log 10. -/
opaque farOrder : Nat → Nat

/-- The sign of an exact sum that is zero where the addends have opposite signs, by rounding mode and the codes of
the operands (R148 keeps the sign of a zero and no rule states it for such a sum).  True is negative.  DESIGN CHOICE, log 12. -/
opaque zeroSumNeg : Nat → Nat → Nat → Nat → Bool

/-- The place of a NaN among the values of a list register, by its code (R215 gives none; a list that a program built by
other words may hold one).  DESIGN CHOICE, log 23. -/
opaque listNan : Nat → Int

/-- The weight in VSAMP, less one and in units of 2^−149, of an entry whose weight is no finite number, by its code
(R221).  DESIGN CHOICE, log 23. -/
opaque sampWeight : Nat → Nat

/-- Whether VSHORT finds Sm below its share where some term of Sm is a NaN, by REF (R219).  DESIGN CHOICE, log 23. -/
opaque shortShare : Nat → Bool

/-- The VALUE that a COPY packet gives its future when the copy succeeds, by counter (R33, R197: the transfer identifier of a task
copy; a packet has none).  DESIGN CHOICE, log 25. -/
opaque packetValue : Nat → Word

/-- The FPCTL under which a COPY packet converts (R198: that of a word; a packet has none).  DESIGN CHOICE, log 26. -/
opaque packetFpctl : Word

/-- The module power as sampled, by counter (R295 names PMOD and not its readings).  DESIGN CHOICE, log 5. -/
opaque modulePower : Nat → BitVec 32

/-- The context in which the block of threshold j is registered (R296 names none).  DESIGN CHOICE, log 27. -/
opaque mgmtCtx : Nat → BitVec 16

/-- The vendor certificate of the attestation key, as a digest (R298).  DESIGN CHOICE, log 11. -/
opaque certificate : Word

/-- The length of the header of a sealed image, in 64-bit words (R291 leaves the layout open).  DESIGN CHOICE, log 11. -/
opaque headerWords : BitVec 32

/-- The length of a sealed image, in 64-bit words, by its nonce and by the number of bytes that it holds (R291 leaves the layout
open).  DESIGN CHOICE, log 11. -/
opaque imageWords : Word → Nat → BitVec 32

/-- Word `k` of the image of a nonce: ciphertext (R285).  DESIGN CHOICE, log 11. -/
opaque imageWord : Word → Nat → Word

/-- What stands for the fields that a region inherits where its chain of parents ends at no root, by cycle, region and word of the
control block (R35 leaves the inherited values unspecified).  DESIGN CHOICE, log 43. -/
opaque brokenWord : Nat → Nat → Nat → Word

/-- How a budget test, and a test whether a region lies under another, comes out on such a chain, by cycle, region and test (R35 leaves
both unspecified).  DESIGN CHOICE, log 43. -/
opaque brokenHolds : Nat → Nat → Nat → Bool

/-- The use that a charge on such a chain leaves in a control block, by cycle and region (R35 leaves it unspecified).  DESIGN CHOICE, log 43. -/
opaque brokenUse : Nat → Nat → Nat

end Sys2Proof.Config
end

