-- ==== Sys2Proof/Machine/State.lean ====
section
/-! DEFINITION. The state of one module (R5): every register, memory, queue and transfer that the spec gives it, as
plain data.  A sparse list of keys and values is kept sorted by key with no default value listed, so that equal
contents are equal lists. -/

namespace Sys2Proof.Machine
open Sys2Proof

/-- A sparse map from numbers to values: sorted by key, no repeats. -/
abbrev Assoc (α : Type) := List (Nat × α)

/-- The four issue engines (R69). -/
inductive Eng | S | V | M | A
deriving DecidableEq, Repr

/-! ### Exact accumulators (R157) -/

/-- One exact accumulator: an entry of acc0 or acc1, or a latch ps0 to ps3. -/
structure AccEntry where
  /-- V, a 128-bit two's complement integer. -/
  v : BitVec 128
  nan : Bool
  pinf : Bool
  ninf : Bool
  ovf : Bool
  trn : Bool
deriving DecidableEq, Repr

/-- V = 0 with the state bits clear. -/
def AccEntry.zero : AccEntry := ⟨0, false, false, false, false, false⟩

/-- The check word of an entry: V mod 65,521 and the five state bits (R192). -/
structure CheckWord where
  m : BitVec 16
  bits : BitVec 5
deriving DecidableEq, Repr

/-- One accumulator: entries (i, j) at key i × 64 + j, unlisted ones zero; check words, unlisted ones those of a zero
entry; the armed bit (R157, R192). -/
structure Acc where
  entries : Assoc AccEntry
  check : Assoc CheckWord
  armed : Bool
deriving DecidableEq, Repr

/-- A cleared accumulator. (DESIGN CHOICE, log 3) -/
def Acc.clear (armed : Bool) : Acc := ⟨[], [], armed⟩

/-! ### The registers of a tile -/

/-- One hardware loop level: active bit, start and end word index (R77, R231). -/
structure Loop where
  active : Bool
  start : BitVec 13
  stop : BitVec 13
deriving DecidableEq, Repr

/-- What fetch keeps: the word index of the next word, the loop counters and levels (R64, R76, R77). -/
structure Fetch where
  pc : Nat
  lc : Vector (BitVec 32) 3
  loops : Vector Loop 3
deriving DecidableEq, Repr

/-- Fetch at word 0 with no loop open. -/
def Fetch.start : Fetch := ⟨0, Vector.replicate 3 0, Vector.replicate 3 ⟨false, 0, 0⟩⟩

/-- The registers that a chunk's start state holds (R84): those of R64 but the accumulators and the fetch state, and
the saved control registers of R78 (DEDUCED, log 119). -/
structure Regs where
  /-- s0 to s63. -/
  s : Vector Word 64
  /-- p0 to p7. -/
  p : Vector Bool 8
  /-- v0 to v31, 2,048 bytes each, byte 0 in bits 7..0. -/
  v : Vector (BitVec 16384) 32
  /-- m0 to m7. -/
  m : Vector (BitVec 512) 8
  /-- ps0 to ps3. -/
  ps : Vector AccEntry 4
  vshape : Word
  fpctl : Word
  taskkey : Word
  sampth : Word
  accw : Vector Word 2
  psw : Vector Word 4
  thandler : Word
  /-- NEXT0 to NEXT3 (R195). -/
  next : Vector (BitVec 48) 4
  /-- TSTAT.INH (R229). -/
  inh : Bool
  /-- TSTAT.WAKEPEND (R229). -/
  wakepend : Bool
deriving DecidableEq, Repr

/-- The registers of R22 at a task's start, before its arguments are placed; also their value at device reset
(DESIGN CHOICE, log 2). -/
def Regs.clear : Regs where
  s := Vector.replicate 64 0
  p := (Vector.replicate 8 false).set 0 true
  v := Vector.replicate 32 0
  m := (Vector.replicate 8 0).set 0 (BitVec.allOnes 512)
  ps := Vector.replicate 4 AccEntry.zero
  vshape := 0x7FC0
  fpctl := 0
  taskkey := 0
  sampth := 0
  accw := Vector.replicate 2 0
  psw := Vector.replicate 4 0
  thandler := 0
  next := Vector.replicate 4 0
  inh := false
  wakepend := false

/-- What a word captures at its delivery (R70, R147, R381). -/
structure Caps where
  vshape : Word
  fpctl : Word
  taskkey : Word
  sampth : Word
  accw : Vector Word 2
  psw : Vector Word 4
deriving DecidableEq, Repr

/-- The captures of a fresh task. -/
def Caps.clear : Caps := ⟨0x7FC0, 0, 0, 0, Vector.replicate 2 0, Vector.replicate 4 0⟩

/-- A delivered word's place: its delivery number, word index, raw word, captures, and fetch as it was before its
delivery. -/
structure Slot where
  seq : Nat
  idx : Nat
  raw : Word
  caps : Caps
  before : Fetch
deriving DecidableEq, Repr

/-- A queued word: its slot, the instruction and the cycle of its delivery. -/
structure QEntry where
  slot : Slot
  word : Instr
  at_ : Nat
deriving DecidableEq, Repr

/-- The destination of a result and its value (R74). -/
inductive Dest
  | sreg (r : SReg) (x : Word)
  | pred (n : PReg) (x : Bool)
  /-- A vector register: the bits of `en` take the bits of `x`. -/
  | vec (r : VReg) (x en : BitVec 16384)
  /-- A mask: the bits of `en` take the bits of `x`. -/
  | mask (n : MReg) (x en : BitVec 512)
  | latch (n : LReg) (x : AccEntry)
  /-- Flags only. -/
  | none
deriving DecidableEq, Repr

/-- A fixed-latency result in flight: the cycle in which it lands, its word's number, destination and flags in the
order of FPCTL [21:16] (R74, R147, R232). -/
structure Landing where
  cyc : Nat
  seq : Nat
  dest : Dest
  flags : BitVec 6
deriving DecidableEq, Repr

/-- The three results of a word with V = 1, awaiting write-back (R248). -/
structure Vote where
  a : Landing
  b : Landing
  c : Landing
  /-- Bits of an element of a vector destination, on which the copies vote one by one (R248). -/
  width : Nat
deriving DecidableEq, Repr

/-- The earliest next issue of each engine: Issue + Occupancy of its last word, or the cycle of an ALIGN (R71, R72). -/
structure Occ where
  s : Nat
  v : Nat
  m : Nat
  a : Nat
deriving DecidableEq, Repr

/-! ### Addresses, ranges, stores and commands -/

/-- A span of bytes [lo, hi] in the local address space of this device (none) or another (R108). -/
structure Range where
  dev : Option (BitVec 12)
  lo : Nat
  hi : Nat
deriving DecidableEq, Repr

/-- For whom an access is made: the context with its page-table root, region-table base and queue-table base, the region charged, the
rights, and the physical tile (R20, R78, R130). -/
structure Ident where
  ctx : BitVec 16
  root : Word
  rgnbase : Word
  qbase : Word
  region : BitVec 32
  priv : Bool
  tile : Nat
deriving DecidableEq, Repr

/-- A store in a write buffer: the span it writes in the address space of its task, the bytes it writes in the host
physical map as (address, mask of written bits, value), the generation of its translation, the node it concerns, its
tile, context and region, its migration source number, and the commit that published it (R86, R93, R139, R208,
R252). -/
structure Store where
  range : Range
  cells : List (Nat × Byte × Byte)
  gen : Option Byte
  node : Option Nat
  tile : Nat
  ctx : BitVec 16
  region : BitVec 32
  seqNo : BitVec 32
  commitNo : Nat
  /-- The cycle before which a RETRY is not resent, and whether a migration redirected it (R139). -/
  notBefore : Nat
  redirected : Bool
  /-- Its data cannot be corrected (a physical upset; R252). -/
  upset : Bool
deriving DecidableEq, Repr

/-- An operand of an MMA as read at issue: registers from a first one, or base and pitch word (R173, R183, R185). -/
inductive MOpd
  | regs (r : VReg)
  | pad (base pitch : Word)
deriving DecidableEq, Repr

/-- The operation of an engine command with its operands as read at issue. -/
inductive CmdOp
  | mma (acc : Bool) (a b : MOpd) (k : Nat) (pair : Pair) (zero twin : Bool)
  | mzero (acc : Bool)
  | mdrain (acc : Bool) (vd : VReg) (ty : ETy) (rm : Rm)
  | mstore (acc : Bool) (base : Word) (rp : Nat) (ty : OutTy) (rm : Rm)
  | mtile (acc : Bool)
  | copy (dst src : Word) (len : Nat) (path : CPath)
  | gath (dst src : Word) (idx : List Int) (size : Nat)
  | scat (dst src : Word) (idx : List Int) (size : Nat)
deriving DecidableEq, Repr

/-- An engine command: its operation, the MMA of a COPYM, channel, identifier and barrier of a copy, captures, ranges,
and whether its accumulator window or Understudy copy has spoilt it (R79, R94, R108, R147, R172). -/
structure Cmd where
  who : Ident
  op : CmdOp
  follow : Option CmdOp
  ch : BitVec 2
  tid : BitVec 48
  bar : Option Word
  fut : Bool
  seq : Nat
  idx : Nat
  fpctl : Word
  window : Word
  rd : List Range
  wr : List Range
  /-- The cycle of issue, from which the Understudy's 8 tc count (R79). -/
  issued : Nat
  /-- The commit that released it. -/
  rel : Nat
  /-- The Understudy's copy differs (a physical upset; R247). -/
  upset : Bool
  /-- The issuing task has ended (R321). -/
  orphan : Bool
  /-- A copy's follow-on whose copy has completed (true) or failed (false) (R199). -/
  copyDone : Option Bool
deriving DecidableEq, Repr

/-- A held translation: context, local page address shifted by 16, size (true 2 MiB), leaf words, blocks read
(R132, R133). -/
structure TlbEntry where
  ctx : BitVec 16
  vpn : BitVec 36
  big : Bool
  w0 : Word
  w1 : Word
  blocks : List Nat
deriving DecidableEq, Repr

/-- A transfer in progress on a channel or as a packet: its command, the bytes or elements already landed, the flags
raised, the fault it met as (status code, address), and the cycle before which no further sector lands. -/
structure Xfer where
  cmd : Cmd
  pos : Nat
  flags : BitVec 6
  fault : Option (BitVec 8 × Word)
  waitFor : Nat
  /-- Sectors sent to another device and not yet acknowledged (R120). -/
  unacked : Nat
  /-- Its fault is that of a sector which had left for another device, recorded in LASTFAIL (R270, R321). -/
  late : Bool
  /-- The translations that it has used, which it keeps (R133). -/
  kept : List TlbEntry
deriving DecidableEq, Repr

/-- A far operation (R116): an atomic update, a node release or a walk; NBACK with the sign at the next node. -/
inductive FarKind
  | red (op : AOp) (dbl : Bool) (y : Word)
  | nfree
  | nvloss (k : BitVec 16)
  | nback (k : BitVec 16) (v : Word) (alt neg : Bool)
deriving DecidableEq, Repr

/-- A far operation on its way to its home, or a walk on its way to its next node: for whom, the physical address or
node number of its home, the issuing tile (none for a forwarded walk), the level of a walk, the generation of its
translation, and the address for a report. -/
structure FarOp where
  kind : FarKind
  who : Ident
  home : Nat
  tile : Option Nat
  lvl : Nat
  gen : Option Byte
  ga : Word
  seqNo : BitVec 32
  /-- The cycle before which a RETRY is not resent (R139). -/
  notBefore : Nat
  /-- It was redirected by a migration (R139). -/
  redirected : Bool
deriving DecidableEq, Repr

/-- A launch block as read (R24). -/
structure Block where
  flags : BitVec 32
  prog : BitVec 32
  key : BitVec 32
  region : BitVec 32
  pkt : Byte
  status : Byte
  res : Byte
  bclass : Byte
  joincnt : BitVec 16
  coord : BitVec 16
  args : Vector Word 5
deriving DecidableEq, Repr

/-- A successor named by an EXIT and read at its issue: its address (device and local) and its block (R27). -/
structure Succ where
  addr : Word
  blk : Block
deriving DecidableEq, Repr

/-- A request: its kind, the address for reports, the device, context there and slot, the address there, the generation
of a physical access, the operation code, operands, and data (R264). -/
structure Request where
  kind : Nat
  ga : Word
  pdev : BitVec 12
  rctx : BitVec 16
  slot : BitVec 10
  addr : Nat
  gen : Option Byte
  opc : Nat
  oper0 : Word
  oper1 : Word
  data : List Byte
deriving DecidableEq, Repr

/-- A side effect held at the tile to its chunk's commit, in program order (R94). -/
inductive Effect
  | command (c : Cmd)
  | far (f : FarOp)
  /-- A store, node store, far operation or walk that leaves for another device. -/
  | remote (q : Request)
  | ctl (num : BitVec 12) (v : Word)
  | window (addr : Nat) (v : Word)
  | successors (l : List Succ)
deriving DecidableEq, Repr

/-- What a boundary word does after its chunk's commit, with its operands as read at issue (R80, R82). -/
inductive BOp
  | lds (d : SReg) (pa : Nat)
  | stf (pa : Nat) (v : Word)
  | ste (pa : Nat)
  | amo (d : SReg) (addr : Word) (op : AOp) (dbl : Bool) (y : Word)
  | cas (d : SReg) (addr : Word) (dbl : Bool) (expect new : Word)
  | freg (d : SReg) (fut cell : Word)
  | fres (fut value : Word) (fail : Bool)
  | repri (d : SReg) (region : BitVec 32) (mtch : Word) (key : BitVec 32)
  | cancel (d : SReg) (region : BitVec 32)
  | nalloc (d : SReg)
  | drain (p : DPath)
  | tidw (a : SReg) (ch : BitVec 2)
  | fence (sc : Scope)
  | tlbi (scope : BitVec 2) (ctx : BitVec 16) (va : Word)
  | seal (d : SReg) (region : BitVec 32) (desc : Word)
  | unseal (d : SReg) (region : BitVec 32) (desc : Word)
  | route (slot : BitVec 10) (img : Word)
deriving DecidableEq, Repr

/-- A boundary operation: for whom, its word's index and number, its place in the commit order once its chunk has
committed, the dies that have applied it (CANCEL, REPRI), the entries it has counted or the cycle before which a RETRY is
not resent, and whether the Chorus bit is to be returned. -/
structure Bnd where
  who : Ident
  op : BOp
  idx : Nat
  seq : Nat
  commitNo : Option Nat
  dies : List Nat
  count : Nat
  chorus : Bool
  begun : Bool
  /-- The identifier of a remote request sent for it (R123). -/
  req : Option Nat
  /-- Fetch before the word: where a task resumes whose wait has been withdrawn (R114, R240). -/
  before : Fetch
deriving DecidableEq, Repr

/-- A trap to take: cause, TEPC, TVAL, the resume word, engine cause (R224, R225). -/
structure TrapRec where
  cause : Byte
  epc : Nat
  tval : Word
  rpc : Nat
  engine : Bool
deriving DecidableEq, Repr

/-- A deferred fault met by an issued word, found by its count of words from the chunk start (R226). -/
structure Deferred where
  seq : Nat
  idx : Nat
  cause : Byte
  tval : Word
  /-- Park the task on this page instead of trapping (R128). -/
  park : Option (BitVec 36)
deriving DecidableEq, Repr

/-- A chunk's start state (R84), recorded in cycle `f`. -/
structure StartState where
  regs : Regs
  inflight : List Landing
  occ : Occ
  /-- Issue + Occupancy of the last word of each engine, an ALIGN of all engines apart (R231, R416). -/
  ends : Occ
  f : Nat
deriving DecidableEq, Repr

/-- What follows the commit of a chunk that ended before a word: the trap of that word, or parking on the page it met
(R100, R128). -/
inductive EndWith
  | trap (r : TrapRec)
  | park (page : BitVec 36)
deriving DecidableEq, Repr

/-- An open chunk (R80 to R100). -/
structure Chunk where
  /-- Fetch before its first word. -/
  fetch : Fetch
  /-- Delivery number of its first word. -/
  first : Nat
  /-- Words delivered, a COPYM counting two (R172). -/
  count : Nat
  /-- Words issued. -/
  issued : Nat
  /-- Its last word has been delivered. -/
  ended : Bool
  start : Option StartState
  stores : List Store
  /-- Held side effects with their words' numbers, in program order. -/
  effects : List (Nat × Effect)
  /-- Line keys read and written (R86, R87). -/
  reads : List Nat
  writes : List Nat
  /-- A written line is neither in the tile's own slice nor in a page private to it (R91). -/
  shared : Bool
  /-- Translations the chunk used (R133). -/
  xlate : List TlbEntry
  bnd : Option Bnd
  attempt : Nat
  solo : Bool
  /-- The words that have raised flags: word number, word index, flags, and those of them that are enabled (R152). -/
  exc : List (Nat × Nat × BitVec 6 × BitVec 6)
  /-- Stop delivery before this count of words (R226). -/
  stopAt : Option Nat
  /-- The cycles of its last S-engine issue and of its last issue (R93, R99). -/
  lastS : Nat
  lastAt : Nat
  /-- Its commit request, by cycle (R93). -/
  requested : Option Nat
  /-- A commit hit it while an older chunk waits (R96). -/
  doomed : Bool
  /-- What follows once it has committed (R100, R128). -/
  trap : Option EndWith
  /-- Its first word is delivered alone: the word that met a deferred fault (R226). -/
  lone : Bool
  /-- It ends with EXIT (R321). -/
  exits : Bool
  /-- It ends with a SAFEPT that saves: the live map's word index (R237). -/
  safept : Option Nat
  /-- Squashes for CHECK_MISMATCH in a row (R247). -/
  mismatches : Nat
  /-- The Understudy's digest differs (a physical upset). -/
  upset : Bool
  /-- A consumed uncorrectable error has squashed it once (R250). -/
  consumed : Bool
  /-- An asynchronous event has truncated it and its trap has been taken, with LOST as it stood (R100). -/
  taken : Option (TrapRec × Bool)
  /-- The cycles in which its words were delivered, newest first, a COPYM twice; before which cycles a re-execution delivers them; and
  the count of the first word that has waited for something else than its delay (R85). -/
  deliv : List Nat
  plan : List Nat
  stallAt : Option Nat
deriving DecidableEq, Repr

/-- An interlocked load outstanding, in program order: its destination with the value once known, the cycle from
which it may land, the remote request it waits for, and its flags (R75, R105, R123, R147). -/
structure Load where
  seq : Nat
  idx : Nat
  dest : Dest
  ready : Nat
  req : Option Nat
  flags : BitVec 6
deriving DecidableEq, Repr

/-- How a remote load's bytes make its value: a scalar of n bytes with or without sign extension, or the bytes placed
into a vector register at given offsets. -/
inductive RFin
  | scalar (r : SReg) (sx : Bool) (n : Nat)
  /-- Element places: (bit offset in the register, bit offset in the data, width). -/
  | vector (r : VReg) (places : List (Nat × Nat × Nat))
  | atomic
  | ack
  /-- An operation of a task that has ended (R270). -/
  | lost
  /-- A sector of `n` bytes sent by a copy channel; a block asked for by one. -/
  | sector (ch : BitVec 2) (n : Nat)
  | pull (ch : BitVec 2)
  /-- The quiet probe of die `d`'s migration to a source (R139). -/
  | probe (d src : Nat)
  /-- A word that an agent of a context reads at a paged address (R55, R423). -/
  | word (ctx : BitVec 16) (va : Nat)
deriving DecidableEq, Repr

/-- A remote request not yet answered (R264, R267): its number, kind and body as sent, route slot, generation, the cycle
of sending, what its answer completes, and where its bytes go; the cycle from which a RETRY is resent, or 0 (R139). -/
structure RReq where
  id : Nat
  kind : Nat
  ga : Word
  pdev : BitVec 12
  slot : BitVec 10
  body : List Byte
  sent : Nat
  fin : RFin
  loadSeq : Nat
  part : Nat
  got : Option (List Byte)
  idx : Nat
  again : Nat
deriving DecidableEq, Repr

/-- The task on a tile (R22, R45). -/
structure Task where
  ctx : BitVec 16
  blk : Block
  ek : BitVec 32
  seq : BitVec 32
  cancelled : Bool
  /-- Cycles on the holding die at its enqueue, for a return to Queued. -/
  enq : Nat
  /-- The list buffer a batch task frees when it ends: (die, class, buffer) (R61). -/
  buffer : Option (Nat × Nat × Bool)
  /-- The threshold that released a management task (R42). -/
  mgmt : Option Nat
deriving DecidableEq, Repr

/-- An asynchronous event waiting to be taken (R227): cause, TVAL, word index of its command, engine cause. -/
structure AsyncEv where
  cause : Byte
  tval : Word
  engine : Bool
deriving DecidableEq, Repr

/-- What a saved task keeps (R238, R239): registers, fetch, accumulators, results in flight as cycles from X, occupancy ends of
S, V, M and A as cycles from X, the bytes of the frame area when INH = 1, whether all was saved, a solo reservation that it
holds (R247), and the asynchronous events that still pend (R227). -/
structure Saved where
  regs : Regs
  fetch : Fetch
  acc : Vector Acc 2
  inflight : List Landing
  occ : List Int
  frame : Option (List Byte)
  full : Bool
  solo : Bool
  async : List AsyncEv
  lost : Bool
  intr : Option (BitVec 16)
deriving DecidableEq, Repr

/-- A queued task (R45): its block, context, effective key, number, the die cycle of its enqueue, whether BOOST is
applied, whether its LIMIT is counted, its die while a rebalancing move runs, its saved state, ageing steps applied. -/
structure Entry where
  blk : Block
  ctx : BitVec 16
  ek : BitVec 32
  seq : BitVec 32
  enq : Nat
  boosted : Bool
  limited : Bool
  /-- The cycle in which a move to this die ends, none when not moving. -/
  moving : Option Nat
  saved : Option Saved
  aged : Nat
  buffer : Option (Nat × Nat × Bool)
  mgmt : Option Nat
  /-- Its record in the heap or the spill area cannot be corrected (a physical upset; R252). -/
  upset : Bool
deriving DecidableEq, Repr

/-- Why a task is being saved (R237, R239, R128, R247). -/
inductive SaveWhy
  | safept (map : Nat)
  | watchdog
  /-- A store to PAGEIN for the page has come since (R128). -/
  | park (page : BitVec 36) (seen : Bool)
  | mismatch
deriving DecidableEq, Repr

/-- The state of a tile's power gating (R243, R253). -/
inductive Gate
  | awake
  | entering (since : Nat) (woken : Bool)
  | gated
  | ungating (since : Nat)
deriving DecidableEq, Repr

/-- A replay window of an accumulator (R193, R345): the snapshot, the commands since, the lowest and highest byte of this device
that they have read, the vector registers that they have read, and whether one of those has been written since. -/
structure Window where
  snap : Acc
  cmds : List Cmd
  range : Option (Nat × Nat)
  regs : List Nat
  dirty : Bool
  /-- The command at the head of the matrix queue is being replayed. -/
  replay : Bool
deriving DecidableEq, Repr

/-- A program plane: the program it holds (context, PROG), and its words (R14, R55). -/
structure Plane where
  prog : Option (BitVec 16 × BitVec 32)
  words : Assoc Word
  /-- WORDS of the entry that it was loaded by (R54, R64). -/
  count : Nat
  lastUsed : Nat
deriving DecidableEq, Repr

/-- An empty plane. -/
def Plane.empty : Plane := ⟨none, [], 0, 0⟩

/-- One tile. -/
structure Tile where
  regs : Regs
  fetch : Fetch
  acc : Vector Acc 2
  -- control registers not in a chunk's start state (R78)
  taskflg : BitVec 32
  tcause : Word
  tepc : Word
  tval : Word
  priv : Bool
  ptroot : Word
  rgnbase : Word
  qbase : Word
  progbase : Word
  ctxid : BitVec 16
  undstat : BitVec 32
  -- the program
  planes : Vector Plane 2
  plane : Bool
  words : Nat
  badDiff : List (BitVec 16 × BitVec 32)
  -- fetch and issue
  /-- Fetch is stopped until a word issues, or for good. -/
  fstop : Bool
  /-- The first cycle in which fetch may deliver again. -/
  fresume : Nat
  /-- The cycle of the last delivery and the words delivered in it (R70). -/
  dcyc : Nat
  dcount : Nat
  /-- Delivery number of the next word. -/
  nseq : Nat
  queue : List QEntry
  iw : Slot
  occ : Occ
  /-- Issue + Occupancy of the last word of each engine, an ALIGN of all engines apart (R231, R416). -/
  ends : Occ
  inflight : List Landing
  votes : List Vote
  loads : List Load
  /-- Cycle in which the last word issued, X of R231. -/
  lastIssue : Nat
  /-- The flags that landed in FPCTL in a cycle, ORed in after a write of that cycle (R147). -/
  landFlags : Nat × BitVec 6
  /-- The word that would have issued met a RETRY at a home and has not issued (R139; the model's own mark). -/
  retry : Bool
  -- chunks
  older : Option Chunk
  cur : Option Chunk
  /-- The boundary operation outstanding (R82). -/
  bnd : Option Bnd
  /-- The tile as it stood in the cycle in which the last word issued, with interlocked results since: the start state
  of the chunk that follows, and what a trap frame holds (R84, R231). -/
  snap : StartState
  /-- The next chunk delivers its first word alone (R226). -/
  loneNext : Bool
  deferred : Option Deferred
  /-- WAITE's wait: its word's number, the deadline and mask, the watermarks at issue, and whether an event came
  (R413). -/
  waite : Option (Nat × Word × BitVec 3 × Vector (BitVec 48) 4)
  waited : Bool
  solo : Bool
  soloWant : Bool
  -- engines
  /-- Released commands not yet in an engine: they await the Understudy (R79). -/
  released : List Cmd
  mqueue : List Cmd
  mstart : Option Nat
  /-- The MSTORE that writes: its sectors that have landed and the translations that it keeps (R111, R133). -/
  mwrite : Option (Nat × List TlbEntry)
  chans : Vector (List Cmd) 4
  xfers : Vector (Option Xfer) 4
  windows : Vector (Option Window) 2
  /-- MDRAIN results still to land (16 tc after the engine; R182), with the exception that an enabled flag of theirs raises (R152). -/
  drains : List (Load × Option AsyncEv)
  -- translation
  tlb : List TlbEntry
  -- events
  trap : Option TrapRec
  async : List AsyncEv
  lost : Bool
  intr : Option (BitVec 16)
  /-- A truncation for an asynchronous event or a save has been made (R100). -/
  trunc : Bool
  preq : Option Nat
  saving : Option SaveWhy
  -- the task
  task : Option Task
  loading : Option Nat
  /-- The program-table entry that the load has read, with the cause of a read that failed or 0 (R55). -/
  loadEntry : Option (List Word × Byte)
  resume : Option Saved
  ended : Bool
  -- other devices
  remote : List RReq
  /-- Stores and far operations of committed chunks that wait to be sent, with their words' indices (R94, R267). -/
  unsent : List (Nat × Request)
  srcSeq : BitVec 32
  -- gating and health
  gate : Gate
  idleSince : Nat
  wake : Bool
  /-- A fault or a save needs the core, which is no wake message (R242, DEDUCED, log 116). -/
  stir : Bool
  ucount : BitVec 32
  fbank : BitVec 3
  /-- A second bank that has failed (R245). -/
  fbank2 : Option (BitVec 3)
  degraded : Bool
  failed : Bool
  badRows : List (Nat × Nat)
  intrReg : BitVec 16
  /-- WAKE as last written (R253). -/
  wakeReg : Bool
deriving DecidableEq, Repr

/-- A tile right after reset. -/
def Tile.idle : Tile where
  regs := Regs.clear
  fetch := Fetch.start
  acc := Vector.replicate 2 (Acc.clear true)
  taskflg := 0
  tcause := 0
  tepc := 0
  tval := 0
  priv := false
  ptroot := 0
  rgnbase := 0
  qbase := 0
  progbase := 0
  ctxid := 0
  undstat := 0
  planes := Vector.replicate 2 Plane.empty
  plane := false
  words := 0
  badDiff := []
  fstop := true
  fresume := 0
  dcyc := 0
  dcount := 0
  nseq := 0
  queue := []
  iw := ⟨0, 0, 0, Caps.clear, Fetch.start⟩
  occ := ⟨0, 0, 0, 0⟩
  ends := ⟨0, 0, 0, 0⟩
  inflight := []
  votes := []
  loads := []
  lastIssue := 0
  landFlags := (0, 0)
  retry := false
  older := none
  cur := none
  bnd := none
  snap := ⟨Regs.clear, [], ⟨0, 0, 0, 0⟩, ⟨0, 0, 0, 0⟩, 0⟩
  loneNext := false
  deferred := none
  waite := none
  waited := false
  solo := false
  soloWant := false
  released := []
  mqueue := []
  mstart := none
  mwrite := none
  chans := Vector.replicate 4 []
  xfers := Vector.replicate 4 none
  windows := Vector.replicate 2 none
  drains := []
  tlb := []
  trap := none
  async := []
  lost := false
  intr := none
  trunc := false
  preq := none
  saving := none
  task := none
  loading := none
  loadEntry := none
  resume := none
  ended := false
  remote := []
  unsent := []
  srcSeq := 0
  gate := .awake
  idleSince := 0
  wake := false
  stir := false
  ucount := 0
  fbank := 0
  fbank2 := none
  degraded := false
  failed := false
  badRows := []
  intrReg := 0
  wakeReg := false

/-! ### A compute die -/

/-- A deadline class (R48, R62). -/
structure DlClass where
  boost : BitVec 32
  promote : BitVec 32
  limit : BitVec 32
  dlmiss : BitVec 16
  drop : Bool
deriving DecidableEq, Repr

/-- A Chorus class: its registers and its slots (R59 to R62). -/
structure ChClass where
  region : BitVec 32
  prog : BitVec 32
  coord : BitVec 16
  part : BitVec 8
  bsize : BitVec 7
  window : BitVec 16
  listbase : Word
  userarg : Word
  /-- A disabling write of the second word that waits for the class to empty (R62). -/
  pending : Option Word
  collecting : List Entry
  /-- The close point of a non-empty collecting slot. -/
  closeAt : Option Nat
  /-- The collecting slot has closed and waits for the closing slot: cycle of the close. -/
  closed : Option Nat
  closing : List Entry
  closeCycle : Nat
  backlog : List Entry
  busy0 : Bool
  busy1 : Bool
deriving DecidableEq, Repr

/-- A Chorus class after reset. -/
def ChClass.empty : ChClass := ⟨0, 0, 0, 0, 0, 0, 0, 0, none, [], none, none, [], 0, [], false, false⟩

/-- A parked task: its entry, and the page it waits for (R128). -/
structure Parked where
  entry : Entry
  page : BitVec 36
  order : Nat
deriving DecidableEq, Repr

/-- Where a packet stands in its queue (R40): context, queue, index, slot address. -/
structure PktRef where
  ctx : BitVec 16
  q : BitVec 16
  idx : Nat
deriving DecidableEq, Repr

/-- A running COPY packet (R203, R204). -/
structure PktCopy where
  ref : PktRef
  xfer : Xfer
  bar : Option Word
  fut : Option Word
deriving DecidableEq, Repr

/-- A cancellation or re-prioritisation on its way to a die, in commit order (R58): for whom, and the tile that waits for it
or the die whose CANCSTAT reports it with the number of the CANCELREQ store there (R62); once it has begun, the regions that it
set to CANCELLING. -/
inductive DieOp
  | cancel (who : Ident) (region : BitVec 32) (tile : Option Nat) (home no : Nat) (sel : Option (List Nat))
  | repri (who : Ident) (region : BitVec 32) (mtch : Word) (key : BitVec 32) (tile : Nat)
deriving DecidableEq, Repr

/-- The migration of a die (R139). -/
structure Migration where
  old : Nat
  new : Nat
  ndev : BitVec 12
  ngen : Byte
  /-- MSTATE of the old and the new frame. -/
  oldState : BitVec 4
  newState : BitVec 4
  /-- Bytes of the fill copy still to do. -/
  filled : Bool
  /-- Sources of accesses since START: a tile, or 0x200 + device for a remote one. -/
  sources : List Nat
  /-- Remote sources with the route back to each: device, agent, hop bytes. -/
  routes : List (BitVec 12 × BitVec 10 × List Byte)
  /-- Sources whose probe is unanswered; none before DONE. -/
  probes : Option (List Nat)
  /-- Highest sequence number applied from each source at the new home. -/
  applied : Assoc (BitVec 32)
deriving DecidableEq, Repr

/-- One compute die. -/
structure Die where
  cyc : Word
  heap : List Entry
  /-- Entries in the middle of a rebalancing move from this die, each with the die that it goes to (R46, R53). -/
  moves : List (Nat × Entry)
  /-- Spill buckets by number, oldest spill first. -/
  buckets : Assoc (List Entry)
  seq : BitVec 32
  /-- Ageing steps and rebalancing periods of the die counter that have been made (R47, R53). -/
  ageStep : Nat
  rebalStep : Nat
  /-- The first die cycle in which the next dispatch may happen (R49). -/
  dispAt : Nat
  /-- The die cycle in which the next refill happens, none while no place is free or nothing is spilled (R52). -/
  refillAt : Option Nat
  renum : Bool
  spillbase : Word
  segments : BitVec 32
  margin : BitVec 32
  rebalEn : Bool
  cctx : BitVec 16
  cregion : BitVec 32
  cbusy : Bool
  /-- CANCELREQ stores so far: CANCSTAT reports the last one. -/
  cancNo : Nat
  canccnt : BitVec 16
  /-- Deadline classes 1 to 15 at 0 to 14. -/
  dl : Vector DlClass 15
  /-- Chorus classes 1 to 16 at 0 to 15. -/
  ch : Vector ChClass 16
  /-- Chorus arrivals of committed blocks awaiting the class (R60). -/
  chIn : List Entry
  parked : List Parked
  pktCopies : List PktCopy
  ops : List DieOp
  -- translation block (R140)
  stale : Bool
  kvbad : Bool
  kvempty : Bool
  twinused : Bool
  twinrec : Word
  fmbase : Word
  kvframes : BitVec 20
  kvarena : BitVec 28
  kvpoolbase : Word
  kvpoolcap : BitVec 32
  kvpoolcnt : BitVec 32
  kvfree : Word
  pagein : Word
  poisonclr : Word
  migold : Word
  ndev : BitVec 12
  nframe : BitVec 28
  ngen : Byte
  migStart : Bool
  migDone : Bool
  mig : Option Migration
  /-- Entries held by the die's translation cache: the entry's address, its words, and the table blocks that the walks to it have read
  (R132, R133). -/
  tcache : List (Nat × (Word × Word) × List Nat)
  -- NSM block (R214)
  rembad : Bool
  badfree : Bool
  badwalk : Bool
  errnode : Word
  -- commit arbiter (R92): tiles in order of their requests
  requests : List Nat
  -- containment block (R253)
  savebase : Word
  slots : BitVec 32
  wdsaves : BitVec 32
  votefix : BitVec 32
  parfix : Word
  ecode : Byte
  etile : BitVec 9
  eaddr : Word
deriving DecidableEq, Repr

/-- A compute die right after reset. (DESIGN CHOICE, log 4) -/
def Die.reset : Die where
  cyc := 0
  heap := []
  moves := []
  buckets := []
  seq := 0
  ageStep := 0
  rebalStep := 0
  dispAt := 0
  refillAt := none
  renum := false
  spillbase := 0
  segments := 0
  margin := 0
  rebalEn := false
  cctx := 0
  cregion := 0
  cbusy := false
  cancNo := 0
  canccnt := 0
  dl := Vector.replicate 15 ⟨0, 0, 0, 0, false⟩
  ch := Vector.replicate 16 ChClass.empty
  chIn := []
  parked := []
  pktCopies := []
  ops := []
  stale := false
  kvbad := false
  kvempty := false
  twinused := false
  twinrec := 0
  fmbase := 0
  kvframes := 0
  kvarena := 0
  kvpoolbase := 0
  kvpoolcap := 0
  kvpoolcnt := 0
  kvfree := 0
  pagein := 0
  poisonclr := 0
  migold := 0
  ndev := 0
  nframe := 0
  ngen := 0
  migStart := false
  migDone := false
  mig := none
  tcache := []
  rembad := false
  badfree := false
  badwalk := false
  errnode := 0
  requests := []
  savebase := 0
  slots := 0
  wdsaves := 0
  votefix := 0
  parfix := 0
  ecode := 0
  etile := 0
  eaddr := 0

/-! ### The host die -/

/-- A fabric port, with the flits received of a packet that is not complete (R254, R281, R282). -/
structure Port where
  pen : Bool
  up : Bool
  downev : Bool
  rx : List Byte
  /-- Frames in a row that have come with a bad CRC (R254). -/
  tries : Nat
deriving DecidableEq, Repr

/-- A packet (R255): hop bytes, header fields, payload bytes; where it came in, and whether it is to be ejected here. -/
structure Packet where
  hop : List Byte
  kind : Nat
  hops : Nat
  ptr : Nat
  mc : Bool
  plen : Nat
  srcdev : BitVec 12
  dstdev : BitVec 12
  srcag : BitVec 10
  res : BitVec 9
  body : List Byte
deriving DecidableEq, Repr

/-- A power threshold (R296, R297). -/
structure Threshold where
  sel : BitVec 4
  dir : Bool
  en : Bool
  level : BitVec 32
  blk : Word
deriving DecidableEq, Repr

/-- A 64 KiB page of an image: va[51:16], leaf words, frame record and bytes (R291). -/
structure SealPage where
  vpn : BitVec 36
  w0 : Word
  w1 : Word
  record : List Byte
  bytes : List Byte
deriving DecidableEq, Repr

/-- A sealed image in structured form (R285, R291): header fields and sections.  The byte form under the keys of R285
is the implementation's (DESIGN CHOICE, log 11). -/
structure SealImage where
  tenant : Word
  meas : List Byte
  c : Word
  nb : Word
  dev : BitVec 12
  region : BitVec 32
  /-- Sections 1 and 2: RCBs by region, and queues by number with the descriptor and the ring slots from RDIDX on. -/
  rcbs : List (BitVec 32 × List Byte)
  queues : List (BitVec 16 × List Byte)
  /-- Sections 3 and 4: entries in SeqBefore order with their saved tasks, parked ones with their page. -/
  entries : List (Entry × Option (BitVec 36))
  /-- Section 5: the bytes of the pinned ranges (tile coordinate, slice offset). -/
  pinned : List (BitVec 16 × Nat × List Byte)
  /-- Section 6: nodes with their owner region and record bytes. -/
  nodes : List (Nat × BitVec 32 × List Byte)
  /-- Section 7. -/
  pages : List SealPage
deriving DecidableEq, Repr

/-- Who asked the Glaze engine: a tile's SEAL or UNSEAL, or a CKPT packet (R287, R289). -/
inductive GlzBy
  | tile (t : Nat) (d : SReg)
  | packet (r : PktRef)
deriving DecidableEq, Repr

/-- The stage a Glaze request has reached (R290, R292): peers are asked, or asked to raise, until all have answered or their time is
over. -/
inductive GlzStage | queued | asking | asked | holding | raising | raised
deriving DecidableEq, Repr

/-- What is sent to the quorum peers for a request: their device-table indices, the tenant, the counter and tag, and the report: DEVID, the
certificate of the attestation key, MEAS, a nonce, and whether the key that signs it has been derived (R283, R292, R298). -/
structure PeerAsk where
  peers : List (BitVec 12)
  tenant : Word
  c : Word
  nb : Word
  devid : BitVec 12
  cert : Word
  meas : List Byte
  nonce : Word
  signed : Bool
deriving DecidableEq, Repr

/-- A request of the Glaze engine: its answers are (peer, counter, tag, key released); the nonce of the image that an UNSEAL has
found (R290, R292). -/
structure Glaze where
  id : Nat
  by_ : GlzBy
  ctx : BitVec 16
  region : BitVec 32
  desc : Word
  uns : Bool
  stage : GlzStage
  answers : List (BitVec 3 × Word × Word × Bool)
  since : Nat
  c : Word
  nb : Word
  image : Option Word
  ask : Option PeerAsk
deriving DecidableEq, Repr

/-- The answer to the last access of a host core or a PCIe function (R119, R276). -/
inductive HostAns | none | value (v : Word) | done | abort | unsupported
deriving DecidableEq, Repr

/-- The host die (R5, R281, R297). -/
structure HostDie where
  cyc : Word
  en : Bool
  devid : BitVec 12
  ctxbase : Word
  rtimeout : BitVec 32
  fwdcap : BitVec 32
  fwdbase : Word
  errlost : BitVec 16
  tmo : BitVec 16
  lostops : BitVec 16
  badimg : Bool
  lastfail : Word
  owner : Word
  ownerbrk : Word
  refused : BitVec 32
  badpart : Bool
  ports : Vector Port 32
  /-- VFMAP 0 to 255: VCTX in [63:48], VFWIN in [47:0]. -/
  vfmap : Assoc Word
  pmap : Assoc (BitVec 32)
  pwidth : Assoc (BitVec 10)
  slots : Assoc (List Byte)
  staging : Assoc (List Byte)
  /-- Packets to send on, packets that wait to be ejected here, packets ejected here, packets sent. -/
  outbound : List Packet
  arriving : List Packet
  inbound : List Packet
  sent : List (BitVec 5 × Packet)
  /-- Requests of the host-die agent not yet answered, and its next sequence number (R255, R267). -/
  hostReqs : List RReq
  hostSeq : BitVec 32
  -- power (R297)
  pmod : BitVec 32
  plimit : BitVec 32
  physt : BitVec 16
  kmin : BitVec 4
  duty : Vector (BitVec 4) 4
  thresholds : Vector Threshold 16
  /-- Die power of dies 0 to 3, then die temperature (R296). -/
  dieSensors : Vector (BitVec 32) 8
  /-- Sampling periods made, and the last sample of counters 0 to 12; none before the first (R295, R296). -/
  psample : Nat
  sampled : List Nat
  tenbase : Word
  qtimeout : BitVec 32
  measlock : Bool
  -- sealing
  glaze : List Glaze
  glazeNext : Nat
  /-- Images by nonce, with their lengths in bytes (DESIGN CHOICE, log 11), and those on storage, by namespace and LBA (R276, R286). -/
  images : Assoc (Nat × SealImage)
  storage : Assoc Word
  /-- Flash counters and tags by TENANTID (R284). -/
  flash : Assoc (Word × Word)
  /-- The counters and tags of its own tenants, in its own flash (R284). -/
  ownFlash : Assoc (Word × Word)
  -- bring-up (R298)
  rootPort : Bool
  keysDerived : Bool
  failedStep : Option (BitVec 3)
  answer : HostAns
  /-- The last answer of this module as a quorum peer: its counter and tag, and whether it confirmed or released the key
  (R284, R292). -/
  peerAnswer : Option (Word × Word × Bool)
deriving DecidableEq, Repr

/-- The host die right after reset. -/
def HostDie.reset : HostDie where
  cyc := 0
  en := false
  devid := 0
  ctxbase := 0
  rtimeout := 0
  fwdcap := 0
  fwdbase := 0
  errlost := 0
  tmo := 0
  lostops := 0
  badimg := false
  lastfail := 0
  owner := 0
  ownerbrk := 0
  refused := 0
  badpart := false
  ports := Vector.replicate 32 ⟨false, false, false, [], 0⟩
  vfmap := []
  pmap := []
  pwidth := []
  slots := []
  staging := []
  outbound := []
  arriving := []
  inbound := []
  sent := []
  hostReqs := []
  hostSeq := 0
  pmod := 0
  plimit := 13600
  physt := 200
  kmin := 4
  duty := Vector.replicate 4 15
  thresholds := Vector.replicate 16 ⟨0, false, false, 0, 0⟩
  dieSensors := Vector.replicate 8 0
  psample := 0
  sampled := []
  tenbase := 0
  qtimeout := 0
  measlock := false
  glaze := []
  glazeNext := 0
  images := []
  storage := []
  flash := []
  ownFlash := []
  rootPort := true
  keysDerived := true
  failedStep := none
  answer := .none
  peerAnswer := none

/-! ### The module -/

/-- The owner tag of an allocated node: context and region (R208). -/
structure NodeTag where
  ctx : BitVec 16
  region : BitVec 32
deriving DecidableEq, Repr

/-- A join or future arrival on its way: the 64-bit address of its block, whether it comes from a failed future, for
whom, and the program-table base in use (R20, R30). -/
structure Arrival where
  addr : Word
  failed : Bool
  who : Ident
  prog : Word
deriving DecidableEq, Repr

/-- A word of another device that an agent of a context has read: its address, the cause of a failure or 0, the word, and
whether the operation that asked for it has used it (R55, R423, DESIGN CHOICE, log 14). -/
structure Pulled where
  ctx : BitVec 16
  va : Nat
  cause : Byte
  word : Word
  used : Bool
deriving DecidableEq, Repr

structure State where
  /-- tc since reset (the model's clock). -/
  now : Nat
  /-- The tile whose turn it is, and its number. -/
  tileId : Nat
  tile : Tile
  /-- Every other tile that is not idle, by number. -/
  others : Assoc Tile
  /-- Tiles still to move in this cycle, none while its events come; events come in it so far (the model's own fields; DESIGN CHOICE, log 6). -/
  turn : Option (List Nat)
  moves : Nat
  dies : Vector Die 4
  host : HostDie
  /-- Memory of the host physical map (R275): near DRAM and LPDDR, slices, NSM. -/
  mem : List Host.Cell
  /-- Words of flat SRAM whose full bit is set, by host physical address, ascending (R112). -/
  full : List Nat
  /-- Words that carry a poison code or an uncorrectable error, by address in the map, ascending (R245, R250); and those of
  them that carry a poison code, which no rebuild corrects (R245). -/
  bad : List Nat
  coded : List Nat
  /-- Owner tags of the allocated nodes (R208). -/
  nodes : Assoc NodeTag
  /-- Committed stores that have not drained, in commit order (R93, R109). -/
  wb : List Store
  /-- Commits performed (R93). -/
  commitNo : Nat
  /-- The die that holds the grant, the cycle of its arrival there, and the requests served since (R92). -/
  grant : Nat
  grantAt : Nat
  served : Nat
  /-- The request in service: its tile, and the cycle in which every receiver has acknowledged its signature (R92). -/
  serving : Option (Nat × Nat)
  /-- The solo reservation and the tiles that wait for it (R97). -/
  soloTile : Option Nat
  soloQueue : List Nat
  /-- Far operations and walks in flight (R116). -/
  far : List FarOp
  /-- Arrivals on continuations not yet applied (R30). -/
  arrivals : List Arrival
  /-- Table blocks on the poison list, and the overflow bit (R136). -/
  poison : List Nat
  povf : Bool
  /-- Round-robin position of the queue readers (R43). -/
  rrCtx : Nat
  /-- The queue from which each context is read next. -/
  rrQueue : Assoc Nat
  /-- Ranges being moved by a shrink, as (source, destination, length, region and entry); removals waiting (R18, R63). -/
  pinMoves : List (Nat × Nat × Nat)
  /-- Regions whose pin lists are in effect, with the bytes charged (R37). -/
  pinned : List (BitVec 16 × BitVec 32 × Nat)
  shrinks : List Nat
  /-- Partitions that have been stopped (R18). -/
  stopped : List Nat
  /-- Words of other devices that agents have read, the reads that they wait for, and the stores that they have made, still to be
  sent (R55, R423, DESIGN CHOICE, log 14). -/
  pulled : List Pulled
  needs : List (BitVec 16 × Nat × Request)
  posts : List Request
  /-- An agent has met a RETRY of a home: what it does waits (R139, the model's own field; DESIGN CHOICE, log 14). -/
  stalled : Bool
  /-- Scrub passes made (R246). -/
  scrubs : Nat
  /-- Order in which tasks parked (R128). -/
  parkOrder : Nat
  /-- Counter of free values (the model's own field; DESIGN CHOICE, log 7). -/
  free : Nat
  /-- Events from outside, each with its cycle (the model's own field). -/
  inputs : List (Nat × Instr)
deriving DecidableEq, Repr

/-- The module right after reset (R298). -/
def State.reset : State where
  now := 0
  tileId := 0
  tile := Tile.idle
  others := []
  turn := none
  moves := 0
  dies := Vector.replicate 4 Die.reset
  host := HostDie.reset
  mem := []
  full := []
  bad := []
  coded := []
  nodes := []
  wb := []
  commitNo := 0
  grant := 0
  grantAt := 0
  served := 0
  serving := none
  soloTile := none
  soloQueue := []
  far := []
  arrivals := []
  poison := []
  povf := false
  rrCtx := 0
  rrQueue := []
  pinMoves := []
  pinned := []
  shrinks := []
  stopped := []
  pulled := []
  needs := []
  posts := []
  stalled := false
  scrubs := 0
  parkOrder := 0
  free := 0
  inputs := []

/-- Why the machine stops. -/
inductive Fault
  /-- Raised by `powerOnReset` and by `step` when a bring-up step has failed: the module is held in reset and takes no
  further step (R298).  Safe. -/
  | heldInReset
deriving DecidableEq, Repr

/-- Why the model gives no meaning. -/
inductive Refusal
  /-- Raised by an arm of `exec` whose instruction has no meaning yet.  Safe. -/
  | notModelled (mnemonic : String)
deriving DecidableEq, Repr

end Sys2Proof.Machine
end

