-- ==== Sys2Proof/Machine/Bits.lean ====
section
/-! DEFINITION. Bit fields, byte order, sparse maps and small list operations that the meanings share (R2). -/

namespace Sys2Proof.Machine
open Sys2Proof

/-! ### Words and bytes -/

/-- Bits [hi:lo] of a word as a number. -/
def fld (w : Word) (hi lo : Nat) : Nat := w.toNat / 2 ^ lo % 2 ^ (hi + 1 - lo)

/-- Bit `i` of a word. -/
def bitAt (w : Word) (i : Nat) : Bool := w.getLsbD i

/-- The word with bits [hi:lo] replaced by `x`. -/
def setFld (w : Word) (hi lo x : Nat) : Word :=
  let m := 2 ^ (hi + 1 - lo)
  BitVec.ofNat 64 (w.toNat - fld w hi lo * 2 ^ lo + x % m * 2 ^ lo)

/-- The word whose only set bit is bit `i`. -/
def onebit (i : Nat) (b : Bool) : Nat := if b then 2 ^ i else 0

/-- A value of `n` bytes from its bytes, little-endian (R2). -/
def ofBytes : List Byte → Nat
  | [] => 0
  | b :: r => b.toNat + 256 * ofBytes r

/-- The `n` low bytes of a value, little-endian (R2). -/
def toBytes : Nat → Nat → List Byte
  | 0, _ => []
  | n + 1, x => BitVec.ofNat 8 x :: toBytes n (x / 256)

/-- A value of `n` bytes sign-extended to 64 bits. -/
def sextBytes (n : Nat) (x : Nat) : Word :=
  let m := 2 ^ (8 * n)
  let y := x % m
  if y < m / 2 then BitVec.ofNat 64 y else BitVec.ofInt 64 ((y : Int) - m)

/-- The signed value of the `w` low bits of `x`. -/
def signedOf (w x : Nat) : Int :=
  let m := 2 ^ w
  let y := x % m
  if y < m / 2 then y else (y : Int) - m

/-- The `w` low bits of an integer, two's complement. -/
def wrapInt (w : Nat) (x : Int) : Nat := (x % (2 ^ w : Nat)).toNat

/-- Clamp an integer to [lo, hi]. -/
def clampInt (x lo hi : Int) : Int := if x < lo then lo else if hi < x then hi else x

/-- Ceil(a / b). -/
def ceilDiv (a b : Nat) : Nat := (a + b - 1) / b

/-- A value, or the greatest value of `w` bits where it is above that. -/
def saturate (w x : Nat) : Nat := min x (2 ^ w - 1)

/-- One more, saturating at the width. -/
def satInc {w : Nat} (x : BitVec w) : BitVec w := if x == BitVec.allOnes w then x else x + 1

/-- SeqBefore of R45. -/
def seqBefore (x y : BitVec 32) : Bool := 1 ≤ (y - x).toNat && (y - x).toNat ≤ 0x7FFFFFFF

/-- Precedes48 of R121. -/
def precedes48 (id w : BitVec 48) : Bool := 1 ≤ (w - id).toNat && (w - id).toNat ≤ 0x7FFFFFFFFFFF

/-! ### Sparse maps -/

/-- The value at a key, or the default. -/
def Assoc.get {α : Type} (d : α) (k : Nat) : Assoc α → α
  | [] => d
  | (j, x) :: r => if j = k then x else Assoc.get d k r

/-- Put a value at a key, keeping the order. -/
def Assoc.put {α : Type} (k : Nat) (x : α) : Assoc α → Assoc α
  | [] => [(k, x)]
  | (j, y) :: r => if k < j then (k, x) :: (j, y) :: r else if j = k then (k, x) :: r else (j, y) :: Assoc.put k x r

/-- Drop a key. -/
def Assoc.drop {α : Type} (k : Nat) : Assoc α → Assoc α
  | [] => []
  | (j, y) :: r => if j = k then r else (j, y) :: Assoc.drop k r

/-- Set the value at a key: the default is not listed. -/
def Assoc.set {α : Type} [DecidableEq α] (d : α) (k : Nat) (x : α) (l : Assoc α) : Assoc α :=
  if x = d then Assoc.drop k l else Assoc.put k x l

/-- Every key is above `k`, keys ascend, and no value is the default. -/
def Assoc.wfFrom {α : Type} [DecidableEq α] (d : α) : Option Nat → Assoc α → Bool
  | _, [] => true
  | lo, (j, x) :: r => (match lo with | none => true | some k => decide (k < j)) && decide (x ≠ d) && wfFrom d (some j) r

/-- The canonical form of a sparse map. -/
def Assoc.wf {α : Type} [DecidableEq α] (d : α) (l : Assoc α) : Bool := Assoc.wfFrom d none l

/-- Insert a number into an ascending list without repeats. -/
def insertNat (k : Nat) : List Nat → List Nat
  | [] => [k]
  | j :: r => if k < j then k :: j :: r else if k = j then j :: r else j :: insertNat k r

/-- The numbers below `n`, ascending. -/
abbrev upto (n : Nat) : List Nat := List.range n

/-- Remove the first element that satisfies a test, with the element. -/
def takeFirst {α : Type} (f : α → Bool) : List α → Option (α × List α)
  | [] => none
  | x :: r => if f x then some (x, r) else
      match takeFirst f r with
      | none => none
      | some (y, r') => some (y, x :: r')

/-- Replace the elements that satisfy a test. -/
def mapIf {α : Type} (f : α → Bool) (g : α → α) (l : List α) : List α := l.map fun x => if f x then g x else x

/-- Insert by an order, after equals. -/
def insertBy {α : Type} (lt : α → α → Bool) (x : α) : List α → List α
  | [] => [x]
  | y :: r => if lt x y then x :: y :: r else y :: insertBy lt x r

/-- Sort by insertion, keeping the order of equals. -/
def sortBy {α : Type} (lt : α → α → Bool) (l : List α) : List α := l.foldl (fun acc x => insertBy lt x acc) []

/-- The best element by a strict order, the first among equals. -/
def bestBy {α : Type} (better : α → α → Bool) : List α → Option α
  | [] => none
  | x :: r =>
    match bestBy better r with
    | none => some x
    | some y => if better y x then some y else some x

/-- Apply a state change for each element in order. -/
def foldState {α σ : Type} (f : σ → α → σ) (s : σ) (l : List α) : σ := l.foldl f s

/-! ### Vectors indexed by bit fields -/

/-- Read a vector at a number below its size, the first element otherwise. -/
def vget {α : Type} {n : Nat} (v : Vector α (n + 1)) (k : Nat) : α := v.getD k v[0]

/-- Write a vector at a number, nothing out of range. -/
def vset {α : Type} {n : Nat} (v : Vector α n) (k : Nat) (x : α) : Vector α n := v.setIfInBounds k x

end Sys2Proof.Machine
end

