-- ==== Sys2Proof/Machine/Flags.lean ====
section
/-! DEFINITION. Number formats and exact arithmetic (R141 to R163): decoding of elements, rounding to a format, the
FPCTL flags each raises, and the exact accumulator. -/

/-! ### Formats (R141) -/

namespace Sys2Proof

/-- Element width in bits. -/
def ETy.width : ETy → Nat
  | .f32 => 32 | .bf16 => 16 | .e4m3 => 8 | .e5m2 => 8 | .e2m1 => 4 | .l6 => 6 | .i8 => 8 | .i32 => 32

/-- Bits an element occupies in a register: those of R66, where an L6 element takes a byte. -/
def ETy.place : ETy → Nat
  | .l6 => 8 | t => t.width

/-- Mantissa width, exponent of the smallest normal, code of the largest finite magnitude (R141). -/
def ETy.mant : ETy → Nat
  | .f32 => 23 | .bf16 => 7 | .e4m3 => 3 | .e5m2 => 2 | .e2m1 => 1 | _ => 0
def ETy.emin : ETy → Int
  | .f32 => -126 | .bf16 => -126 | .e4m3 => -6 | .e5m2 => -14 | .e2m1 => 0 | _ => 0
def ETy.maxCode : ETy → Nat
  | .f32 => 0x7F7FFFFF | .bf16 => 0x7F7F | .e4m3 => 0x7E | .e5m2 => 0x7B | .e2m1 => 7 | .l6 => 31 | _ => 0
/-- Code of +infinity, where the format has infinities. -/
def ETy.infCode : ETy → Option Nat
  | .f32 => some 0x7F800000 | .bf16 => some 0x7F80 | .e5m2 => some 0x7C | _ => none
/-- The canonical NaN; +0 for E2M1 and L6 (R148). -/
def ETy.nanCode : ETy → Nat
  | .f32 => 0x7FC00000 | .bf16 => 0x7FC0 | .e4m3 => 0x7F | .e5m2 => 0x7E | _ => 0

/-- FP32 or BF16. -/
def ETy.isFloat : ETy → Bool
  | .f32 => true | .bf16 => true | _ => false
def ETy.isInt : ETy → Bool
  | .i8 => true | .i32 => true | _ => false
/-- E2M1 or L6: the formats with an escape and outliers (R144). -/
def ETy.hasEscape : ETy → Bool
  | .e2m1 => true | .l6 => true | _ => false
/-- The outlier escape: 0b1000 in E2M1, 0b10_0000 in L6 (R141). -/
def ETy.escape : ETy → Nat
  | .e2m1 => 8 | .l6 => 32 | _ => 0

end Sys2Proof

namespace Sys2Proof.Machine
open Sys2Proof

/-! ### Flags, in the order of FPCTL [21:16] from bit 0: NV, DZ, OF, UF, NX, OO (R145, R152) -/

/-- A set of FPCTL flags. -/
abbrev FFlags := BitVec 6

def FFlags.nv : FFlags := 1
def FFlags.dz : FFlags := 2
def FFlags.of : FFlags := 4
def FFlags.uf : FFlags := 8
def FFlags.nx : FFlags := 16
def FFlags.oo : FFlags := 32

/-- `f` when the condition holds. -/
def FFlags.when (b : Bool) (f : FFlags) : FFlags := if b then f else 0

/-- FPCTL with flags ORed into its sticky bits [21:16] (R147). -/
def orFlags (fpctl : Word) (f : FFlags) : Word := fpctl ||| (zext64 f <<< 16)

/-- The flags among `f` that the captured enables [13:8] select (R152). -/
def enabledFlags (fpctl : Word) (f : FFlags) : FFlags := f &&& BitVec.ofNat 6 (fld fpctl 13 8)

/-- FPCTL.RM, FIZ and FOZ (R145). -/
def fpRm (fpctl : Word) : Nat := fld fpctl 2 0
def fpFiz (fpctl : Word) : Bool := bitAt fpctl 3
def fpFoz (fpctl : Word) : Bool := bitAt fpctl 4

/-! ### Values -/

/-- The value of an element: a NaN, an infinity, or (−1)^neg × m × 2^e.  With `more` the magnitude lies strictly
between m × 2^e and (m + 1) × 2^e: a quotient, root or function value that no finite sum of powers of two gives. -/
inductive FVal
  | nan (sig : Bool)
  | inf (neg : Bool)
  | fin (neg : Bool) (m : Nat) (e : Int) (more : Bool)
deriving DecidableEq, Repr

/-- An exact finite value. -/
def FVal.exact (neg : Bool) (m : Nat) (e : Int) : FVal := .fin neg m e false

/-- An integer as a value. -/
def FVal.ofInt (x : Int) : FVal := .exact (decide (x < 0)) x.natAbs 0

def FVal.isNan : FVal → Bool
  | .nan _ => true
  | _ => false

def FVal.isSig : FVal → Bool
  | .nan s => s
  | _ => false

def FVal.isInf : FVal → Bool
  | .inf _ => true
  | _ => false

def FVal.isZero : FVal → Bool
  | .fin _ m _ more => m == 0 && !more
  | _ => false

def FVal.neg? : FVal → Bool
  | .nan _ => false
  | .inf n => n
  | .fin n _ _ _ => n

/-- The value with its sign inverted. -/
def FVal.negate : FVal → FVal
  | .nan s => .nan s
  | .inf n => .inf !n
  | .fin n m e r => .fin (!n) m e r

/-- Whether a code is the escape of its type. -/
def isEscape (t : ETy) (c : Nat) : Bool := t.hasEscape && c % 2 ^ t.width == t.escape

/-- The constants of L6 in Q1.15 (R142). -/
def l6c : Nat → Nat
  | 0 => 0x8000 | 1 => 0x9838 | 2 => 0xB505 | _ => 0xD745

/-- The magnitude of L6 code 0 to 31 in units of 2^−19 (R142). -/
def l6mag (c : Nat) : Nat := if c == 0 then 0 else l6c (c % 4) * 2 ^ (c / 4 % 8)

/-- The value of a code of a floating format with sign, exponent field and mantissa (R141). -/
def fpValue (t : ETy) (c : Nat) : FVal :=
  let s := c / 2 ^ (t.width - 1) % 2 == 1
  let mant := c % 2 ^ t.mant
  let ex := c / 2 ^ t.mant % 2 ^ (t.width - 1 - t.mant)
  if ex == 0 then .exact s mant (t.emin - t.mant)
  else .exact s (2 ^ t.mant + mant) (t.emin - t.mant + ((ex : Int) - 1))

/-- ElemValue: the value of an element code; an escape is +0 (R141, R142, R144). -/
def elemValue (t : ETy) (c : Nat) : FVal :=
  match t with
  | .f32 | .bf16 | .e5m2 =>
    let mag := c % 2 ^ (t.width - 1)
    let s := c / 2 ^ (t.width - 1) % 2 == 1
    let ic := t.infCode.getD 0
    if mag == ic then .inf s
    else if mag > ic then .nan (t.isFloat && mag / 2 ^ (t.mant - 1) % 2 == 0)
    else fpValue t c
  | .e4m3 => if c % 128 == 0x7F then .nan false else fpValue t c
  | .e2m1 => if c % 16 == 8 then .exact false 0 0 else fpValue t c
  | .l6 =>
    let c := c % 64
    if c == 32 then .exact false 0 0 else .exact (c / 32 == 1) (l6mag (c % 32)) (-19)
  | .i8 => .ofInt (signedOf 8 c)
  | .i32 => .ofInt (signedOf 32 c)

/-- A subnormal FP32 or BF16 input read as zero of its sign, under FIZ (R149). -/
def fizCode (t : ETy) (fiz : Bool) (c : Nat) : Nat :=
  if fiz && t.isFloat && c / 2 ^ t.mant % 2 ^ (t.width - 1 - t.mant) == 0 then c / 2 ^ (t.width - 1) * 2 ^ (t.width - 1)
  else c

/-- An input element of a vector word: FIZ, then its value, with OO for an escape (R144, R149). -/
def inValue (t : ETy) (fiz : Bool) (c : Nat) : FVal × FFlags :=
  (elemValue t (fizCode t fiz c), FFlags.when (isEscape t c) FFlags.oo)

/-! ### Rounding (R148) -/

/-- What lies below the last place kept. -/
inductive Rest | zero | below | half | above
deriving DecidableEq, Repr

/-- Drop the low `k` bits of m (+ more), with what was dropped. -/
def dropBits (m k : Nat) (more : Bool) : Nat × Rest :=
  let n := m / 2 ^ k
  let r := m % 2 ^ k
  if r == 0 && !more then (n, .zero)
  else if k == 0 then (n, .below)
  else if r < 2 ^ (k - 1) then (n, .below)
  else if r == 2 ^ (k - 1) && !more then (n, .half)
  else (n, .above)

/-- Whether RoundInt takes the upper neighbour; `neg` is the sign of the value (R146, R148). -/
def roundsUp (rm : Nat) (neg odd : Bool) : Rest → Bool
  | .zero => false
  | .below => rm == 2 && !neg || rm == 3 && neg
  | .half => rm == 2 && !neg || rm == 3 && neg || rm == 4 || rm == 0 && odd
  | .above => rm == 2 && !neg || rm == 3 && neg || rm == 4 || rm == 0

/-- m × 2^k for an integer k at or above 0, m otherwise. -/
def shlInt (m : Nat) (k : Int) : Nat := m * 2 ^ k.toNat

/-- RoundInt of a magnitude m × 2^e (+ more) to an integer, with exactness. -/
def roundInt (rm : Nat) (neg : Bool) (m : Nat) (e : Int) (more : Bool) : Nat × Bool :=
  let (n, r) := if 0 ≤ e then (shlInt m e, if more then Rest.below else Rest.zero) else dropBits m (-e).toNat more
  ((if roundsUp rm neg (n % 2 == 1) r then n + 1 else n), r == .zero)

/-- A sign in front of a magnitude code. -/
def signCode (t : ETy) (neg : Bool) (c : Nat) : Nat := if neg then c + 2 ^ (t.width - 1) else c

/-- RoundL6: the greatest code at or below the magnitude, then RoundInt's choice between it and the next. -/
def roundL6 (rm : Nat) (neg : Bool) (m : Nat) (e : Int) (more : Bool) : Nat × FFlags :=
  let k := (-(e + 19)).toNat
  let x := shlInt m (e + 19)
  let v := fun c => l6mag c * 2 ^ k
  if x > v 31 || (x == v 31 && more) then (signCode .l6 neg 31, .of ||| .nx)
  else
    let lo := (upto 32).foldl (fun best c => if v c ≤ x then c else best) 0
    if v lo == x && !more then (if lo == 0 then 0 else signCode .l6 neg lo, 0)
    else
      let mid := v lo + v (lo + 1)
      let r := if 2 * x > mid || (2 * x == mid && more) then Rest.above else if 2 * x == mid then .half else .below
      let c := if roundsUp rm neg (lo % 2 == 1) r then lo + 1 else lo
      (if c == 0 then 0 else signCode .l6 neg c, .nx)

/-- RoundToFormat to a floating format, E2M1 or L6 (R148), without FOZ. -/
def roundFmt (t : ETy) (rm : Nat) : FVal → Nat × FFlags
  | .nan _ => (t.nanCode, FFlags.when t.hasEscape FFlags.nv)
  | .inf n =>
    match t.infCode with
    | some c => (signCode t n c, 0)
    | none => (signCode t n t.maxCode, FFlags.nv)
  | .fin neg m e more =>
    if m == 0 && !more then ((if t.hasEscape then 0 else signCode t neg 0), 0)
    else if t == .l6 then roundL6 rm neg m e more
    else
      let ea := e + (m.log2 : Int)
      let e1 := max ea t.emin
      let shift := e1 - t.mant - e
      let (n, r) := if shift ≤ 0 then (shlInt m (-shift), if more then Rest.below else Rest.zero)
        else dropBits m shift.toNat more
      let n := if roundsUp rm neg (n % 2 == 1) r then n + 1 else n
      let code := (e1 - t.emin).toNat * 2 ^ t.mant + n
      let fl := if r == .zero then 0 else FFlags.nx ||| FFlags.when (ea < t.emin) .uf
      if code > t.maxCode then
        let toInf := rm == 0 || rm == 4 || rm == 2 && !neg || rm == 3 && neg
        match t.infCode with
        | some c => (signCode t neg (if toInf then c else t.maxCode), fl ||| .of ||| .nx)
        | none => (signCode t neg t.maxCode, fl ||| .of ||| .nx)
      else if code == 0 && t == .e2m1 then (0, fl)
      else (signCode t neg code, fl)

/-- FOZ: a nonzero FP32 or BF16 result below 2^−126 becomes zero of its sign, with UF and NX (R149). -/
def fozCode (t : ETy) (foz : Bool) (r : Nat × FFlags) : Nat × FFlags :=
  let mag := r.1 % 2 ^ (t.width - 1)
  if foz && t.isFloat && mag != 0 && mag < 2 ^ t.mant then (r.1 - mag, r.2 ||| .uf ||| .nx) else r

/-- ToInt (R151), as the low `w` bits. -/
def toInt (w rm : Nat) : FVal → Nat × FFlags
  | .nan _ => (0, FFlags.nv)
  | .inf n => (if n then 2 ^ (w - 1) else 2 ^ (w - 1) - 1, FFlags.nv)
  | .fin neg m e more =>
    let (n, ex) := roundInt rm neg m e more
    if !neg && n > 2 ^ (w - 1) - 1 then (2 ^ (w - 1) - 1, FFlags.nv)
    else if neg && n > 2 ^ (w - 1) then (2 ^ (w - 1), FFlags.nv)
    else (wrapInt w (if neg then -(n : Int) else n), FFlags.when (!ex) .nx)

/-- A value rounded to any element type, FOZ applied (R148, R149, R151). -/
def roundTo (t : ETy) (rm : Nat) (foz : Bool) (x : FVal) : Nat × FFlags :=
  if t.isInt then toInt t.width rm x else fozCode t foz (roundFmt t rm x)

/-! ### Exact arithmetic on values (R150) -/

/-- The sign of an exact sum of two finite values: that of the nonzero sum, the common sign of two zeros, and for any
other zero sum the free value `zero` (DESIGN CHOICE, log 12). -/
def addFin (zero n1 n2 : Bool) (m1 m2 : Nat) (e1 e2 : Int) : FVal :=
  let e := min e1 e2
  let a := shlInt m1 (e1 - e)
  let b := shlInt m2 (e2 - e)
  if n1 == n2 then .exact n1 (a + b) e
  else if a == b then .exact zero 0 e
  else if a > b then .exact n1 (a - b) e
  else .exact n2 (b - a) e

/-- NaN handling of R150: the canonical NaN, with NV for a signalling input. -/
def nanOf (l : List FVal) : Option (FVal × FFlags) :=
  if l.any FVal.isNan then some (.nan false, FFlags.when (l.any FVal.isSig) FFlags.nv) else none

/-- x + y. -/
def fAdd (zero : Bool) (x y : FVal) : FVal × FFlags :=
  match x, y with
  | .inf a, .inf b => if a == b then (.inf a, 0) else (.nan false, FFlags.nv)
  | .inf a, .fin .. => (.inf a, 0)
  | .fin .., .inf b => (.inf b, 0)
  | .fin n1 m1 e1 _, .fin n2 m2 e2 _ => (addFin zero n1 n2 m1 m2 e1 e2, 0)
  | x, y => (nanOf [x, y]).getD (.nan false, 0)

/-- x × y. -/
def fMul (x y : FVal) : FVal × FFlags :=
  match x, y with
  | .inf a, .inf b => (.inf (a != b), 0)
  | .inf a, .fin n m _ _ => if m == 0 then (.nan false, FFlags.nv) else (.inf (a != n), 0)
  | .fin n m _ _, .inf b => if m == 0 then (.nan false, FFlags.nv) else (.inf (n != b), 0)
  | .fin n1 m1 e1 _, .fin n2 m2 e2 _ => (.exact (n1 != n2) (m1 * m2) (e1 + e2), 0)
  | x, y => (nanOf [x, y]).getD (.nan false, 0)

/-- x × y + z with one rounding to come; 0 × infinity sets NV even when z is a quiet NaN (R386). -/
def fFma (zero : Bool) (x y z : FVal) : FVal × FFlags :=
  let (p, f) := fMul x y
  let (r, g) := fAdd zero p z
  (r, f ||| g)

/-- The quotient of two nonzero finite values. -/
def divFin (n1 n2 : Bool) (m1 m2 : Nat) (e1 e2 : Int) : FVal :=
  let k := 70 + m2.log2
  let a := m1 * 2 ^ k
  .fin (n1 != n2) (a / m2) (e1 - e2 - k) (a % m2 != 0)

/-- x / y by IEEE 754 with the cases of R150. -/
def fDiv (x y : FVal) : FVal × FFlags :=
  match x, y with
  | .inf _, .inf _ => (.nan false, FFlags.nv)
  | .inf a, .fin n _ _ _ => (.inf (a != n), 0)
  | .fin n _ _ _, .inf b => (.exact (n != b) 0 0, 0)
  | .fin n1 m1 e1 _, .fin n2 m2 e2 _ =>
    if m2 == 0 then (if m1 == 0 then (.nan false, FFlags.nv) else (.inf (n1 != n2), .dz))
    else if m1 == 0 then (.exact (n1 != n2) 0 0, 0)
    else (divFin n1 n2 m1 m2 e1 e2, 0)
  | x, y => (nanOf [x, y]).getD (.nan false, 0)

/-- Floor of the square root, from the bits below `k`. -/
def isqrtFrom (n : Nat) : Nat → Nat → Nat
  | 0, r => r
  | k + 1, r => isqrtFrom n k (if (r + 2 ^ k) * (r + 2 ^ k) ≤ n then r + 2 ^ k else r)

/-- Floor of the square root. -/
def isqrt (n : Nat) : Nat := isqrtFrom n (n.log2 / 2 + 1) 0

/-- √x (R386). -/
def fSqrt (x : FVal) : FVal × FFlags :=
  match x with
  | .nan s => (.nan false, FFlags.when s FFlags.nv)
  | .inf n => if n then (.nan false, FFlags.nv) else (.inf false, 0)
  | .fin n m e _ =>
    if m == 0 then (.exact n 0 0, 0)
    else if n then (.nan false, FFlags.nv)
    else
      let odd := e % 2 == 1
      let a := m * 2 ^ (if odd then 141 else 140)
      let e' := if odd then e - 141 else e - 140
      let r := isqrt a
      (.fin false r (e' / 2) (r * r != a), 0)

/-- 1 / x (R386). -/
def fRcp (x : FVal) : FVal × FFlags := fDiv (.exact false 1 0) x

/-- 1 / √x (R386). -/
def fRsq (x : FVal) : FVal × FFlags :=
  match x with
  | .nan s => (.nan false, FFlags.when s FFlags.nv)
  | .inf n => if n then (.nan false, FFlags.nv) else (.exact false 0 0, 0)
  | .fin n m e _ =>
    if m == 0 then (.inf n, .dz)
    else if n then (.nan false, FFlags.nv)
    else
      let m' := if e % 2 == 1 then 2 * m else m
      let e' := if e % 2 == 1 then e - 1 else e
      let r := isqrt (2 ^ 300 / m')
      (.fin false r (-(e' / 2) - 150) (r * r * m' != 2 ^ 300), 0)

/-! ### The functions of R386, in fixed point with 320 fraction bits (DEDUCED, log 13) -/

/-- Fraction bits of the fixed point. -/
def fxBits : Nat := 320
def fxOne : Nat := 2 ^ fxBits

/-- Σ w^(2k+1) / (2k+1), from the term given on. -/
def atanhLoop (w2 : Nat) : Nat → Nat → Nat → Nat → Nat
  | 0, _, _, acc => acc
  | fuel + 1, j, term, acc => atanhLoop w2 fuel (j + 2) (term * w2 / fxOne) (acc + term / j)

/-- The natural logarithm of a ratio a / b in [1, 2], in fixed point. -/
def lnFix (a b : Nat) : Nat :=
  let w := (a - b) * fxOne / (a + b)
  2 * atanhLoop (w * w / fxOne) 110 1 w 0

/-- ln 2 in fixed point. -/
def ln2Fix : Nat := lnFix 2 1

/-- Σ t^k / k!. -/
def expLoop (t : Nat) : Nat → Nat → Nat → Nat → Nat
  | 0, _, _, acc => acc
  | fuel + 1, k, term, acc => expLoop t fuel (k + 1) (term * t / fxOne / k) (acc + term)

/-- 2^f in fixed point, for f in [0, 1). -/
def exp2Fix (f : Nat) : Nat := expLoop (f * ln2Fix / fxOne) 90 1 fxOne 0

/-- e^−y in fixed point, for y ≥ 0 in fixed point. -/
def expNegFix (y : Nat) : Nat :=
  let u := y * fxOne / ln2Fix
  let n := u / fxOne
  let f := u % fxOne
  exp2Fix (fxOne - 1 - f) / 2 ^ (n + 1)

/-- The magnitude of a finite value in fixed point, at most 200 fraction bits of it being used. -/
def toFix (m : Nat) (e : Int) : Nat := if 0 ≤ e then shlInt m e * fxOne else m * fxOne / 2 ^ (-e).toNat

/-- Whether a magnitude m × 2^e is at least n. -/
def geNat (m : Nat) (e : Int) (n : Nat) : Bool :=
  if 0 ≤ e then decide (n ≤ shlInt m (min e 400)) else decide (n * 2 ^ (-e).toNat ≤ m)

/-- 2^x (R386). -/
def fExp2 (x : FVal) : FVal × FFlags :=
  match x with
  | .nan s => (.nan false, FFlags.when s FFlags.nv)
  | .inf n => if n then (.exact false 0 0, 0) else (.inf false, 0)
  | .fin n m e _ =>
    if geNat m e 200 then (.fin false 1 (if n then -400 else 400) true, 0)
    else
      let a := toFix m e
      let t : Int := if n then -(a : Int) else a
      let k := t / (fxOne : Int)
      let f := (t % (fxOne : Int)).toNat
      if f == 0 then (.exact false 1 k, 0) else (.fin false (exp2Fix f) (k - fxBits) true, 0)

/-- log2 x (R386). -/
def fLog2 (x : FVal) : FVal × FFlags :=
  match x with
  | .nan s => (.nan false, FFlags.when s FFlags.nv)
  | .inf n => if n then (.nan false, FFlags.nv) else (.inf false, 0)
  | .fin n m e _ =>
    if m == 0 then (.inf true, .dz)
    else if n then (.nan false, FFlags.nv)
    else
      let k := m.log2
      let i : Int := k + e
      if m == 2 ^ k then (FVal.ofInt i, 0)
      else
        let t : Int := i * (fxOne : Int) + ((lnFix m (2 ^ k) * fxOne / ln2Fix : Nat) : Int)
        if t < 0 then (.fin true (t.natAbs - 1) (-(fxBits : Int)) true, 0) else (.fin false t.natAbs (-(fxBits : Int)) true, 0)

/-- tanh x (R386). -/
def fTanh (x : FVal) : FVal × FFlags :=
  match x with
  | .nan s => (.nan false, FFlags.when s FFlags.nv)
  | .inf n => (.exact n 1 0, 0)
  | .fin n m e _ =>
    if m == 0 then (.exact n 0 0, 0)
    else if geNat m e 100 then (.fin n (2 ^ 280 - 1) (-280) true, 0)
    else if !geNat m (e + 80) 1 then (.fin n (m * 2 ^ 200 - 1) (e - 200) true, 0)
    else
      let ex := expNegFix (2 * toFix m e)
      (.fin n ((fxOne - ex) * fxOne / (fxOne + ex)) (-(fxBits : Int)) true, 0)

/-- 1 / (1 + e^−x) (R386). -/
def fSigm (x : FVal) : FVal × FFlags :=
  match x with
  | .nan s => (.nan false, FFlags.when s FFlags.nv)
  | .inf n => if n then (.exact false 0 0, 0) else (.exact false 1 0, 0)
  | .fin n m e _ =>
    if m == 0 then (.exact false 1 (-1), 0)
    else if geNat m e 120 then (if n then (.fin false 1 (-170) true, 0) else (.fin false (2 ^ 170 - 1) (-170) true, 0))
    else
      let ex := expNegFix (toFix m e)
      (.fin false ((if n then ex else fxOne) * fxOne / (fxOne + ex)) (-(fxBits : Int)) true, 0)

/-! ### Comparison -/

/-- The signed multiple of 2^−e below which two finite values are compared. -/
def finLt (n1 n2 : Bool) (m1 m2 : Nat) (e1 e2 : Int) : Bool :=
  let e := min e1 e2
  let a : Int := shlInt m1 (e1 - e)
  let b : Int := shlInt m2 (e2 - e)
  decide ((if n1 then -a else a) < (if n2 then -b else b))

/-- x < y with −0 equal to +0; false when either is a NaN. -/
def FVal.lt : FVal → FVal → Bool
  | .nan _, _ => false
  | _, .nan _ => false
  | .inf a, .inf b => a && !b
  | .inf a, .fin .. => a
  | .fin .., .inf b => !b
  | .fin n1 m1 e1 _, .fin n2 m2 e2 _ => finLt n1 n2 m1 m2 e1 e2

/-- x = y with −0 equal to +0; false when either is a NaN. -/
def FVal.eq (x y : FVal) : Bool := !x.isNan && !y.isNan && !x.lt y && !y.lt x

/-- x < y with −0 below +0 (R150, R215). -/
def FVal.ltZ (x y : FVal) : Bool := x.lt y || x.eq y && x.isZero && y.isZero && x.neg? && !y.neg?

/-! ### Block scales and outliers (R143, R144) -/

/-- A decoded scale: valid, m, e. -/
structure Scale where
  valid : Bool
  m : Nat
  e : Int
deriving DecidableEq, Repr

/-- The scale of an operand that has none: 1. -/
def Scale.one : Scale := ⟨true, 1, 0⟩

/-- ScaleOf (R143); `e4` selects E4M3. -/
def scaleOf (e4 : Bool) (c : Nat) : Scale :=
  if !e4 then (if c == 0xFF then ⟨false, 0, 0⟩ else ⟨true, 1, (c : Int) - 127⟩)
  else if c ≥ 128 || c % 128 == 0x7F then ⟨false, 0, 0⟩
  else if c / 8 == 0 then ⟨true, c % 8, -9⟩
  else ⟨true, 8 + c % 8, ((c / 8 : Nat) : Int) - 10⟩

/-- The outlier value at position p: the lowest used entry of that position; an entry is VAL [31:16], POS [5:0] shifted
by the layout of R129, given here as (used, position, value code). -/
def outlierAt (p : Nat) : List (Bool × Nat × Nat) → Option Nat
  | [] => none
  | (u, q, v) :: r => if u && q == p then some v else outlierAt p r

/-- ElemUnscaled (R144), with OO for an escape that has no entry. -/
def elemUnscaled (t : ETy) (c p : Nat) (entries : List (Bool × Nat × Nat)) : FVal × FFlags :=
  if isEscape t c then
    match outlierAt p entries with
    | some v => (elemValue .bf16 v, 0)
    | none => (.exact false 0 0, FFlags.oo)
  else (elemValue t c, 0)

/-- A value times m × 2^e. -/
def FVal.scaled (x : FVal) (m : Nat) (e : Int) : FVal :=
  match x with
  | .fin n a k r => .fin n (a * m) (k + e) r
  | x => x

/-- DecodeElem (R144). -/
def decodeElem (t : ETy) (c p : Nat) (s : Scale) (entries : List (Bool × Nat × Nat)) : FVal × FFlags :=
  if !s.valid then (.nan false, 0)
  else
    let (x, f) := elemUnscaled t c p entries
    match x with
    | .nan sig => (.nan false, f ||| FFlags.when sig FFlags.nv)
    | .inf n => if s.m == 0 then (.nan false, f ||| FFlags.nv) else (.inf n, f)
    | x => (x.scaled s.m s.e, f)

/-- L6Prod in units of 2^−23, of two codes that are neither zero nor escapes; 0 with a zero operand (R155). -/
def l6Prod (a b : Nat) : Int :=
  if a % 32 == 0 || b % 32 == 0 then 0
  else
    let q := a % 4 + b % 4
    let mag : Nat := l6c (q % 4) * 2 ^ (a / 4 % 8 + b / 4 % 8 + q / 4)
    if (a / 32 % 2 == 1) != (b / 32 % 2 == 1) then -(mag : Int) else mag

/-! ### The exact accumulator (R157 to R163) -/

/-- An entry while a command runs: its sum is held beyond 128 bits (R158). -/
structure Run where
  v : Int
  nan : Bool
  pinf : Bool
  ninf : Bool
  ovf : Bool
  trn : Bool
deriving DecidableEq, Repr

def AccEntry.run (a : AccEntry) : Run := ⟨a.v.toInt, a.nan, a.pinf, a.ninf, a.ovf, a.trn⟩

/-- 2^115 − 1, the largest multiple in the window (R157). -/
def accMax : Nat := 2 ^ 115 - 1

/-- AddPartial of the exact value (−1)^neg × m × 2^e under window exponent L (R158). -/
def Run.addPartial (r : Run) (l : Int) (neg : Bool) (m : Nat) (e : Int) : Run :=
  let k := e - l
  let q := if 0 ≤ k then shlInt m (min k 40000) else m / 2 ^ (-k).toNat
  let lost := if 0 ≤ k then false else m % 2 ^ (-k).toNat != 0
  let big := decide (accMax < q)
  let q' := if big then accMax else q
  { r with v := r.v + (if neg then -(q' : Int) else q'), trn := r.trn || lost, ovf := r.ovf || big }

/-- Add a value: a NaN sets NAN, an infinity PINF or NINF (R156, R161). -/
def Run.addValue (r : Run) (l : Int) : FVal → Run
  | .nan _ => { r with nan := true }
  | .inf n => if n then { r with ninf := true } else { r with pinf := true }
  | .fin n m e _ => r.addPartial l n m e

/-- CommandEnd (R158). -/
def Run.finish (r : Run) : AccEntry :=
  let big := decide (accMax < r.v.natAbs)
  let v := if big then (if r.v < 0 then -(accMax : Int) else accMax) else r.v
  ⟨BitVec.ofInt 128 v, r.nan, r.pinf, r.ninf, r.ovf || big, r.trn⟩

/-- The window exponent L of a window register (R157). -/
def lsbExp (w : Word) : Int := signedOf 16 w.toNat

/-- DrainEntry (R160) of a running value. -/
def Run.drain (r : Run) (l : Int) (t : ETy) (rm : Nat) (foz : Bool) : Nat × FFlags :=
  let rnd := fun x => if t.isInt then toInt t.width rm x else roundFmt t rm x
  if r.nan || (r.pinf && r.ninf) then (t.nanCode, FFlags.nv)
  else
    let (c, f) :=
      if r.pinf || r.ninf then rnd (.inf r.ninf)
      else if r.v == 0 then (0, 0)
      else rnd (.exact (decide (r.v < 0)) r.v.natAbs l)
    fozCode t foz (c, f ||| FFlags.when r.ovf .of ||| FFlags.when r.trn .nx)

/-- DrainEntry (R160). -/
def AccEntry.drain (a : AccEntry) (l : Int) (t : ETy) (rm : Nat) (foz : Bool) : Nat × FFlags := a.run.drain l t rm foz

/-- The five state bits, NAN in bit 0 (R163). -/
def AccEntry.bits (a : AccEntry) : Nat :=
  onebit 0 a.nan + onebit 1 a.pinf + onebit 2 a.ninf + onebit 3 a.ovf + onebit 4 a.trn

/-- The raw image, 32 bytes (R163). -/
def AccEntry.image (a : AccEntry) (l : Int) : List Byte :=
  toBytes 17 (a.v.toNat + a.bits * 2 ^ 128) ++ toBytes 3 0 ++ toBytes 2 (wrapInt 16 l) ++ toBytes 10 0

/-- A raw image read back, as an entry and its L; none where R163 refuses it. -/
def imageOf (b : List Byte) : Option (AccEntry × Int) :=
  let x := ofBytes b
  let at_ := fun k n => x / 2 ^ (8 * k) % 2 ^ (8 * n)
  if at_ 16 1 ≥ 32 || at_ 17 3 != 0 || at_ 22 10 != 0 then none
  else
    let s := fun k => x / 2 ^ (128 + k) % 2 == 1
    some (⟨BitVec.ofNat 128 x, s 0, s 1, s 2, s 3, s 4⟩, signedOf 16 (at_ 20 2))

/-- Combine an image into a running entry under the receiving window (R163). -/
def Run.combine (r : Run) (l : Int) (a : AccEntry) (la : Int) : Run :=
  let r := { r with nan := r.nan || a.nan, pinf := r.pinf || a.pinf, ninf := r.ninf || a.ninf,
                    ovf := r.ovf || a.ovf, trn := r.trn || a.trn }
  r.addPartial l (decide (a.v.toInt < 0)) a.v.toInt.natAbs la

/-- The check word of an entry: V mod 65,521 and the state bits (R192). (DEDUCED, log 70) -/
def AccEntry.checkWord (a : AccEntry) : CheckWord :=
  ⟨BitVec.ofNat 16 (a.v.toInt % 65521).toNat, BitVec.ofNat 5 a.bits⟩

end Sys2Proof.Machine
end

