-- ==== Sys2Proof/Machine/Chunk.lean ====
section
/-! DEFINITION. The engines of a tile in time (R69, R71), and the start and the squash of chunks (R84, R85, R95 to R97). -/

namespace Sys2Proof.Machine
open Sys2Proof

/-! ### Engines (R69, R71) -/

/-- Earliest next issue of an engine. -/
def Occ.get (o : Occ) : Eng → Nat
  | .S => o.s | .V => o.v | .M => o.m | .A => o.a

/-- Set it. -/
def Occ.set (o : Occ) (e : Eng) (n : Nat) : Occ :=
  match e with
  | .S => { o with s := n } | .V => { o with v := n } | .M => { o with m := n } | .A => { o with a := n }

/-- All four shifted by a number of cycles. -/
def Occ.shift (o : Occ) (k : Nat) : Occ := ⟨o.s + k, o.v + k, o.m + k, o.a + k⟩

/-- The latest of the four. -/
def Occ.latest (o : Occ) : Nat := max (max o.s o.v) (max o.m o.a)

/-! ### Chunks: start, end, squash -/

/-- A chunk that begins with the next word delivered. -/
def Chunk.fresh (f : Fetch) (first : Nat) (start : Option StartState) (attempt : Nat) (solo lone : Bool) : Chunk where
  fetch := f
  first := first
  count := 0
  issued := 0
  ended := false
  start := start
  stores := []
  effects := []
  reads := []
  writes := []
  shared := false
  xlate := []
  bnd := none
  attempt := attempt
  solo := solo
  exc := []
  stopAt := none
  lastS := 0
  lastAt := 0
  requested := none
  doomed := false
  trap := none
  lone := lone
  exits := false
  safept := none
  mismatches := 0
  upset := false
  consumed := false
  taken := none
  deliv := []
  plan := []
  stallAt := none

/-- A start state moved to cycle F′: results in flight and occupancies keep the cycles they had left (R85). -/
def StartState.moved (x : StartState) (f : Nat) : StartState :=
  let k := f - x.f
  ⟨x.regs, x.inflight.map fun l => { l with cyc := l.cyc + k }, x.occ.shift k, x.ends.shift k, f⟩

/-- The cycles of delivery that a re-execution keeps: up to the first word that has waited (R85). -/
def Chunk.schedule (c : Chunk) : List Nat :=
  let l := c.plan ++ c.deliv.reverse.drop c.plan.length
  match c.stallAt with | some n => l.take (n + 1) | none => l

/-- Restart chunk `c` by deliveries from cycle `g` on (R85, R95), with the attempt, solo mode and stop given.  F′ lies as far behind its first
delivery as F did, and each word comes in the same cycle of F′ as of F. -/
def Tile.restart (t : Tile) (c : Chunk) (g attempt : Nat) (solo : Bool) (stopAt : Option Nat) : Tile :=
  let drop := fun (q : Nat) => decide (c.first ≤ q)
  let was := (c.start.map (·.f)).getD g
  let f := g + (was - (c.schedule.head?.getD was))
  let t := match c.start with
    | some st =>
      let st := st.moved f
      { t with regs := st.regs, inflight := st.inflight, occ := st.occ, ends := st.ends, votes := [], snap := st }
    | none => t
  let n := Chunk.fresh c.fetch c.first (c.start.map fun st => st.moved f) attempt solo (c.lone || stopAt == some 0)
  { t with
    cur := some { n with
      lastAt := f
      stopAt := if stopAt == some 0 then none else stopAt
      consumed := c.consumed
      taken := c.taken
      plan := if c.start.isSome then c.schedule.map fun d => d + f - was else [] }
    queue := t.queue.filter fun q => !drop q.slot.seq
    fetch := c.fetch
    nseq := c.first
    fstop := c.taken.isSome
    fresume := g
    loads := t.loads.filter fun l => !drop l.seq
    remote := t.remote.filter fun r => !(drop r.loadSeq && match r.fin with | .scalar .. => true | .vector .. => true | _ => false)
    deferred := match t.deferred with | some d => if drop d.seq then none else some d | none => none
    waite := match t.waite with | some w => if drop w.1 then none else some w | none => none
    waited := match t.waite with | some w => !drop w.1 && t.waited | none => false
    trap := none
    loneNext := false }

/-- Squash the youngest chunk, or both open chunks when `both` (R95, R96).  A conflict advances the attempt; after a
third squash by conflict the tile asks for a solo reservation, and attempt 5 runs in solo mode (R97).  A younger chunk squashed with the
older one begins anew as attempt 1 (R96, DESIGN CHOICE, log 103). -/
def Tile.squash (t : Tile) (now : Nat) (both conflict : Bool) (stopAt : Option Nat) : Tile :=
  let c := if both then (match t.older with | some o => some o | none => t.cur) else t.cur
  match c with
  | none => t
  | some c =>
    let c := { c with ended := false, requested := none, doomed := false }
    let att := if conflict then min 5 (c.attempt + 1) else c.attempt
    let t := if both then { t with older := none } else t
    let t := t.restart c (now + 1) att (c.solo || att == 5) stopAt
    { t with soloWant := t.soloWant || (conflict && decide (4 ≤ att)) }

end Sys2Proof.Machine
end

