-- ==== Sys2Proof/Machine/Mem.lean ====
section
/-! DEFINITION. Memory of the host physical map (R11, R101, R124, R205, R275): one list of the bytes that are not
zero, in ascending order of address.  A byte that nothing has written reads as zero (DESIGN CHOICE, log 1). -/

namespace Sys2Proof.Machine
open Sys2Proof

/-- The bytes of memory that are not zero. -/
abbrev Memory := List Host.Cell

/-- The canonical form of a memory: addresses strictly rising and no zero byte listed. -/
def Memory.wf (m : Memory) : Bool := Assoc.wf (0 : Byte) m

/-- One byte. -/
def Memory.byte (m : Memory) (a : Nat) : Byte := Assoc.get 0 a m

/-- `n` bytes from `a`, little-endian (R2). -/
def Memory.read (m : Memory) (a : Nat) : Nat → Nat
  | 0 => 0
  | n + 1 => (m.byte a).toNat + 256 * m.read (a + 1) n

/-- Write one byte. -/
def Memory.put (m : Memory) (a : Nat) (b : Byte) : Memory := Assoc.set 0 a b m

/-- Write the masked bits of one byte. -/
def Memory.putMask (m : Memory) (a : Nat) (k b : Byte) : Memory := m.put a ((m.byte a &&& ~~~k) ||| (b &&& k))

/-- Write bytes from `a` on. -/
def Memory.write (m : Memory) : Nat → List Byte → Memory
  | _, [] => m
  | a, b :: r => (m.put a b).write (a + 1) r

/-- Write masked bytes. -/
def Memory.writeCells (m : Memory) : List (Nat × Byte × Byte) → Memory
  | [] => m
  | (a, k, b) :: r => (m.putMask a k b).writeCells r

/-! ### The host physical map (R275) -/

/-- Where slice `t` starts. -/
def sliceBase (t : Nat) : Nat := 0x40000000000 + t * 0x400000
/-- Where the record of node `n` starts: NSM of die d at 0x500_0000_0000 + d × 0x200_0000. -/
def nodeBase (n : Nat) : Nat := 0x50000000000 + n * 32
/-- Bytes of a slice (R11). -/
def sliceBytes : Nat := 0x300000
/-- The frame area of a slice (R230). -/
def frameOff : Nat := 0x2FA000
/-- Bytes of the frame area (R230). -/
def frameLen : Nat := 0x6000

/-- A physical address of R124 that holds memory: near DRAM of the four dies or LPDDR. -/
def isDram (a : Nat) : Bool := a < 0x2000000000 || 0x10000000000 ≤ a && a < 0x20000000000
/-- Near DRAM. -/
def isNear (a : Nat) : Bool := a < 0x2000000000
/-- An address in a slice. -/
def isSlice (a : Nat) : Bool := 0x40000000000 ≤ a && a < 0x40000000000 + 512 * 0x400000 && (a - 0x40000000000) % 0x400000 < sliceBytes
/-- An address in the NSM. -/
def isNsm (a : Nat) : Bool := 0x50000000000 ≤ a && a < 0x50000000000 + 4 * 0x2000000
/-- The physical tile of a slice address. -/
def sliceTile (a : Nat) : Nat := (a - 0x40000000000) / 0x400000
/-- The offset in its slice of a slice address. -/
def sliceOff (a : Nat) : Nat := (a - 0x40000000000) % 0x400000
/-- The node of an NSM address. -/
def nodeOf (a : Nat) : Nat := (a - 0x50000000000) / 32

/-- The line key (R87) of the line that holds an address of the map. -/
def lineKey (a : Nat) : Nat :=
  if isNsm a then 2 ^ 38 + nodeOf a / 2
  else if isDram a then 2 * 2 ^ 38 + a / 64
  else sliceTile a * 2 ^ 16 + sliceOff a / 64

/-- The line keys of `n` bytes from `a`, ascending. -/
def lineKeys (a n : Nat) : List Nat :=
  if n == 0 then [] else (List.range ((a + n - 1) / 64 - a / 64 + 1)).map fun i => lineKey ((a / 64 + i) * 64)

/-- The die whose homes hold an address: that of the slice, the NSM or the near stack; die 0 for LPDDR, whose
homes are on the host die. -/
def homeDie (a : Nat) : Nat :=
  if isNsm a then (a - 0x50000000000) / 0x2000000 else if isSlice a then sliceTile a / 128
  else if isNear a then a / 0x800000000 else 0

/-! ### Reads at the homes -/

/-- Apply the bytes of a store to a byte read at `a`. -/
def overCell (a : Nat) (b : Byte) : List (Nat × Byte × Byte) → Byte
  | [] => b
  | (x, k, y) :: r => overCell a (if x = a then (b &&& ~~~k) ||| (y &&& k) else b) r

/-- Apply stores, oldest first, to a byte read at `a`. -/
def overStores (a : Nat) (b : Byte) : List Store → Byte
  | [] => b
  | st :: r => overStores a (overCell a b st.cells) r

/-- `n` bytes from `a` with stores applied. -/
def readOver (m : Memory) (l : List Store) (a : Nat) : Nat → Nat
  | 0 => 0
  | n + 1 => (overStores a (m.byte a) l).toNat + 256 * readOver m l (a + 1) n

/-- A read at the home of `n` bytes: committed data that has not drained is seen (R93). -/
def State.home (s : State) (a n : Nat) : Nat := readOver s.mem s.wb a n

/-- A 64-bit word at the home. -/
def State.home64 (s : State) (a : Nat) : Word := BitVec.ofNat 64 (s.home a 8)

/-- Whether a store writes a byte of [a, a + n). -/
def Store.touches (st : Store) (a n : Nat) : Bool := st.cells.any fun c => a ≤ c.1 && c.1 < a + n

/-- Whether a committed store has still to drain to [a, a + n). -/
def State.undrained (s : State) (a n : Nat) : Bool := s.wb.any fun st => st.touches a n

/-- Take the bytes [a, a + n) out of the stores `f` selects: a later write to the home supersedes them. -/
def stripStores (f : Store → Bool) (a n : Nat) (l : List Store) : List Store :=
  l.map fun st => if f st then { st with cells := st.cells.filter fun c => !(a ≤ c.1 && c.1 < a + n) } else st

/-- A write at the home of bytes, by an agent whose write follows every committed store. -/
def State.homeWrite (s : State) (a : Nat) (b : List Byte) : State :=
  { s with mem := Memory.write s.mem a b, wb := stripStores (fun _ => true) a b.length s.wb,
           bad := s.bad.filter fun w => !(a ≤ w && w + 8 ≤ a + b.length)
           coded := s.coded.filter fun w => !(a ≤ w && w + 8 ≤ a + b.length) }

/-- A write of one 64-bit word at the home. -/
def State.homeWrite64 (s : State) (a : Nat) (v : Word) : State := s.homeWrite a (toBytes 8 v.toNat)

/-- The full bit of a word (R112). -/
def State.isFull (s : State) (a : Nat) : Bool := s.full.contains a

/-- Set or clear a full bit (R112). -/
def State.setFull (s : State) (a : Nat) (b : Bool) : State :=
  { s with full := if b then insertNat a s.full else s.full.filter (· != a) }

end Sys2Proof.Machine
end

