-- ==== Sys2Proof/Machine/Xlate.lean ====
section
/-! DEFINITION. Focus on tiles and dies, partitions (R280), contexts (R258), device tables (R259), the page walk (R124 to
R128, R135, R136) and the accesses of the agents that act for a context (R423). -/

namespace Sys2Proof.Machine
open Sys2Proof

/-! ### Tiles and dies -/

/-- A tile by physical number. -/
def State.tileAt (s : State) (t : Nat) : Tile := if t = s.tileId then s.tile else Assoc.get Tile.idle t s.others

/-- Change a tile by physical number. -/
def State.setTile (s : State) (t : Nat) (x : Tile) : State :=
  if t = s.tileId then { s with tile := x } else { s with others := Assoc.set Tile.idle t x s.others }

/-- Apply a function to a tile. -/
def State.modTile (s : State) (t : Nat) (f : Tile → Tile) : State := s.setTile t (f (s.tileAt t))

/-- Make `t` the tile whose turn it is. -/
def State.focus (s : State) (t : Nat) : State :=
  if t = s.tileId then s
  else
    let o := Assoc.set Tile.idle s.tileId s.tile s.others
    { s with tileId := t, tile := Assoc.get Tile.idle t o, others := Assoc.drop t o }

/-- A change of the tile whose turn it is. -/
def State.onTile (s : State) (f : Tile → Tile) : State := { s with tile := f s.tile }

/-- A die by number. -/
def State.die (s : State) (d : Nat) : Die := vget s.dies d

/-- Apply a function to a die. -/
def State.modDie (s : State) (d : Nat) (f : Die → Die) : State := { s with dies := vset s.dies d (f (s.die d)) }

/-- Apply a function to the host die. -/
def State.modHost (s : State) (f : HostDie → HostDie) : State := { s with host := f s.host }

/-- The compute die of a physical tile (R8). -/
def dieOf (t : Nat) : Nat := t / 128

/-- A fresh value of the counter of free values. -/
def State.tick (s : State) : State := { s with free := s.free + 1 }

/-- The tiles that are listed, ascending, the one in turn among them. -/
def State.tiles (s : State) : List Nat := insertNat s.tileId (s.others.map (·.1))

/-! ### Partitions (R280) -/

/-- The partition and virtual index of a physical tile. -/
def State.place (s : State) (t : Nat) : Option (Nat × Nat) :=
  let e := (Assoc.get 0 t s.host.pmap).toNat
  if e / 2 ^ 31 == 1 then some (e / 2 ^ 24 % 128, e / 2 ^ 15 % 512) else none

/-- The physical tiles of a partition, by virtual index. -/
def State.partTiles (s : State) (part : Nat) : List Nat :=
  let l := s.host.pmap.filterMap fun e =>
    match s.place e.1 with
    | some (q, v) => if q = part then some (v, e.1) else none
    | none => none
  (sortBy (fun a b : Nat × Nat => decide (a.1 < b.1)) l).map (·.2)

/-- The physical tile at a virtual index of a partition. -/
def State.virt (s : State) (part v : Nat) : Option Nat :=
  (s.partTiles part).find? fun t => (s.place t).map (·.2) == some v

/-- The tile count N of a partition. -/
def State.partCount (s : State) (part : Nat) : Nat := (s.partTiles part).length

/-- The grid width W of a partition. -/
def State.partWidth (s : State) (part : Nat) : Nat := (Assoc.get (0 : BitVec 10) part s.host.pwidth).toNat + 1

/-- The physical tile of a coordinate (x, y) of a partition's virtual grid (R49: index y × W + x). -/
def State.coordTile (s : State) (part : Nat) (coord : BitVec 16) : Option Nat :=
  let x := coord.toNat % 256
  let y := coord.toNat / 256
  let w := s.partWidth part
  if x < w then s.virt part (y * w + x) else none

/-! ### Contexts and device tables (R258, R259) -/

/-- Word `k` of a context's entry in the context table. -/
def State.ctxWord (s : State) (ctx : BitVec 16) (k : Nat) : Word :=
  s.home64 (s.host.ctxbase.toNat + ctx.toNat * 64 + k * 8)

/-- Whether the context is VALID. -/
def State.ctxValid (s : State) (ctx : BitVec 16) : Bool := bitAt (s.ctxWord ctx 1) 31

/-- The partition bound to the context. -/
def State.ctxPart (s : State) (ctx : BitVec 16) : Nat := fld (s.ctxWord ctx 1) 18 12

/-- For whom the agents of a context act (R423): the context's own bases. -/
def State.agentOf (s : State) (ctx : BitVec 16) (region : BitVec 32) (tile : Nat) : Ident :=
  ⟨ctx, s.ctxWord ctx 2, s.ctxWord ctx 3, s.ctxWord ctx 4, region, bitAt (s.ctxWord ctx 1) 30, tile⟩

/-- The VALID contexts, ascending (R258). -/
def State.validCtxs (s : State) : List (BitVec 16) :=
  let b := s.host.ctxbase.toNat
  let cand := s.mem.map (·.1) ++ s.wb.flatMap fun st => st.cells.map (·.1)
  let l := cand.foldl (fun acc a => if b ≤ a && a < b + 0x400000 && (a - b) % 64 == 11 then insertNat ((a - b) / 64) acc else acc) []
  (l.map fun c => BitVec.ofNat 16 c).filter fun c => s.ctxValid c

/-- A device named by a device index: this one, or another with its DEVID, context there and route slot. -/
inductive Dev
  | here
  | there (pdev : BitVec 12) (rctx : BitVec 16) (slot : BitVec 10)
deriving DecidableEq, Repr

/-- The hop count of a route slot; 0 is an empty slot (R260). -/
def State.slotHops (s : State) (n : Nat) : Nat :=
  ((Assoc.get [] n s.host.slots).getD 24 0).toNat % 32

/-- The device of an index; none is ROUTE_BAD (R103, R259). -/
def State.device (s : State) (ctx : BitVec 16) (idx : Nat) : Option Dev :=
  if idx == 0xFFF then some .here
  else if fld (s.ctxWord ctx 1) 11 0 ≤ idx then none
  else
    let e := s.home64 ((s.ctxWord ctx 0).toNat + idx * 8)
    if !bitAt e 63 || fld e 62 60 != 0 || fld e 31 10 != 0 then none
    else if fld e 59 48 == s.host.devid.toNat then some .here
    else if s.slotHops (fld e 9 0) == 0 then none
    else some (.there (BitVec.ofNat 12 (fld e 59 48)) (BitVec.ofNat 16 (fld e 47 32)) (BitVec.ofNat 10 (fld e 9 0)))

/-! ### Local addresses (R101) -/

/-- The space of a local address. -/
inductive Space
  | flat (slice off : Nat)
  | nsm (node : Nat)
  | window (off : Nat)
  | paged
  | none
deriving DecidableEq, Repr

/-- The space of a local address of 52 bits (R101). -/
def spaceOf (a : Nat) : Space :=
  if a < 0x80000000 then .flat (a / 0x400000) (a % 0x400000)
  else if 0x100000000 ≤ a ∧ a < 0x108000000 then .nsm ((a - 0x100000000) / 32)
  else if 0x800000000 ≤ a ∧ a < 0x850000000 then .window (a - 0x800000000)
  else if 0x10000000000 ≤ a then .paged
  else .none

/-- Node number's address in the local address space. -/
def nodeAddr (n : Nat) : Nat := 0x100000000 + n * 32

/-! ### Uncorrectable words and rebuild (R244, R245) -/

/-- Whether a word at the home cannot be corrected (R245, R250). -/
def State.uncorrectable (s : State) (a n : Nat) : Bool := s.bad.any fun w => w < a + n && a < w + 8

/-- Record an error of ERRREC on a die (R253). -/
def State.errRec (s : State) (d : Nat) (code : Byte) (tile : Nat) (addr : Word) : State :=
  s.modDie d fun x => { x with ecode := code, etile := BitVec.ofNat 9 tile, eaddr := addr }

/-- The data bank and the row of a slice offset (R244). -/
def bankOf (off : Nat) : Nat := off / 64 % 8
def rowOf (off : Nat) : Nat := off / 512

/-- A saturating count of a 32-bit or 16-bit field. -/
def satAdd {w : Nat} (x : BitVec w) (k : Nat) : BitVec w := BitVec.ofNat w (min (x.toNat + k) (2 ^ w - 1))

/-- Whether bank `b` of a slice has failed (R245). -/
def Tile.lostBank (x : Tile) (b : Nat) : Bool := x.degraded && x.fbank.toNat == b || x.fbank2 == some (BitVec.ofNat 3 b)

/-- Record a failed tile: out of service, its record in ERRREC (R18, R245, R253). -/
def State.failTile (s : State) (t : Nat) (code : Byte) (addr : Nat) : State :=
  (s.modTile t fun x => { x with failed := true }).errRec (dieOf t) code t (BitVec.ofNat 64 addr)

/-- An uncorrectable read of bank `b`, row `r` of a slice (R245): the fourth on four rows within 2^24 tc fails the bank, and
a second failed bank fails the tile. -/
def State.noteRow (s : State) (t b r : Nat) : State :=
  let x := s.tileAt t
  let rows := ((b * 8192 + r, s.now) :: x.badRows.filter fun e => e.1 != b * 8192 + r).filter fun e => s.now < e.2 + 2 ^ 24
  let s := s.modTile t fun x => { x with badRows := rows, ucount := satAdd x.ucount 1 }
  if 4 ≤ (rows.filter fun e => e.1 / 8192 == b).length && !x.lostBank b then
    if x.degraded then (s.modTile t fun x => { x with fbank2 := some (BitVec.ofNat 3 b) }).failTile t 0x51 (sliceBase t)
    else (s.modTile t fun x => { x with degraded := true, fbank := BitVec.ofNat 3 b }).errRec (dieOf t) 0x50 t (BitVec.ofNat 64 (sliceBase t))
  else s

/-- Whether bytes of [lo, hi) lie in words that cannot be corrected where they stand, and in words that carry a poison code (R245). -/
def State.badIn (s : State) (lo hi : Nat) : Bool := s.bad.any fun w => decide (lo < w + 8 ∧ w < hi)
def State.codedIn (s : State) (lo hi : Nat) : Bool := s.bad.any fun w => decide (lo < w + 8 ∧ w < hi) && s.coded.contains w

/-- Words take a poison code: every later read of them is an uncorrectable error until they are rewritten (R245). -/
def State.poisonWords (s : State) (l : List Nat) : State :=
  { s with bad := l.foldl (fun a w => insertNat w a) s.bad, coded := l.foldl (fun a w => insertNat w a) s.coded }

/-- Read the 64-byte line at `line` of a slice, of which the bytes [lo, hi) are used: rebuilt where it must be, else poisoned
(R245); the answer says whether an uncorrectable error remains. -/
def State.senseLine (s : State) (line lo hi : Nat) : State × Bool :=
  let t := sliceTile line
  let off := sliceOff line
  let b := bankOf off
  let x := s.tileAt t
  let u := s.badIn (max lo line) (min hi (line + 64))
  let lost := x.lostBank b
  if !u && !lost then (s, false)
  else
    let row := line - b * 64
    let code := s.codedIn (max lo line) (min hi (line + 64))
    let others := s.badIn row line || s.badIn (line + 64) (row + 512)
    let s := if u then s.noteRow t b (rowOf off) else s
    if code then (s, true)
    else if others || (List.range 8).any fun c => c != b && x.lostBank c then
      (s.poisonWords ((List.range 8).map fun i => line + 8 * i), true)
    else (s.modDie (dieOf t) fun d => { d with parfix := d.parfix + 1 }, false)

/-- A read of `n` bytes at `pa` of the map: the answer says whether an uncorrectable error is consumed (R245). -/
def State.sense (s : State) (pa n : Nat) : State × Bool :=
  if !isSlice pa then (s, s.uncorrectable pa n)
  else
    (List.range ((pa + n - 1) / 64 - pa / 64 + 1)).foldl (fun (a : State × Bool) i =>
      let r := a.1.senseLine ((pa / 64 + i) * 64) pa (pa + n)
      (r.1, a.2 || r.2)) (s, false)

/-! ### The page walk (R125 to R128, R135, R136) -/

/-- Where a walk ends: a good leaf (words, level, table blocks read), an absent entry (words, level, address of the
entry), or a fault. -/
inductive WalkEnd
  | leaf (w0 w1 : Word) (lvl : Nat) (blocks : List Nat)
  | absent (w0 w1 : Word) (lvl : Nat) (at_ : Nat)
  | fault (cause : Byte)
deriving DecidableEq, Repr

def causeIllegal : Byte := 0x01
def causePrivilege : Byte := 0x02
def causeMisalign : Byte := 0x03
def causePageAbsent : Byte := 0x08
def causePagePerm : Byte := 0x09
def causePageFormat : Byte := 0x0A
def causePoisonXlate : Byte := 0x0B
def causePoisonData : Byte := 0x10
def causeArith : Byte := 0x11
def causeOutlierOvf : Byte := 0x12
def causeFutureTwice : Byte := 0x18
def causeBudget : Byte := 0x19
def causeRouteBad : Byte := 0x20
def causeRouteDown : Byte := 0x21
def causeTwinMismatch : Byte := 0x29
def causeSealStale : Byte := 0x38
def causeInterrupt : Byte := 0x40
def causeUser : Byte := 0x41

/-- Index of an address at a level (R125). -/
def walkIndex (lvl va : Nat) : Nat :=
  match lvl with
  | 4 => va / 2 ^ 45 % 128
  | 3 => va / 2 ^ 37 % 256
  | 2 => va / 2 ^ 29 % 256
  | 1 => va / 2 ^ 21 % 256
  | _ => va / 2 ^ 16 % 32

/-- The leaf fields that a template of an absent entry shares (R126, R127): RES0 bits, codes and geometry. -/
def shapeBad (n lvl : Nat) (w0 w1 : Word) : Bool :=
  let fmt := fld w1 63 60
  let geo := fld w1 59 55
  fld w0 55 44 != 0 || fld w0 15 12 != 0 || fld w0 5 4 != 0 || fld w1 31 0 != 0 || fld w0 7 6 ≥ 2 || fmt ≥ 8
    || fld w1 59 58 == 3 || fld w1 56 55 == 3 || fmt ≤ 2 && geo != 0
    || (fmt == 3 || fmt == 4 || fmt == 7) && fld w1 56 55 != 0
    || bitAt w1 53 && lvl == 1 || bitAt w0 11 && n ≤ fld w1 52 44

/-- A malformed leaf (R127); `n` is the partition's tile count. -/
def leafBad (n lvl : Nat) (w0 w1 : Word) : Bool :=
  shapeBad n lvl w0 w1 || fld w0 3 2 != 0 || !isDram (fld w0 43 16 * 2 ^ 16) || lvl == 1 && fld w0 20 16 != 0

/-- A malformed pointer entry (R125, R127). -/
def pointerBad (w0 w1 : Word) : Bool :=
  fld w0 63 44 != 0 || fld w0 12 2 != 0 || w1 != 0 || !isDram (fld w0 43 13 * 2 ^ 13)

/-- A malformed absent entry: both flags, ALLOC above level 0, or a bad template (R128). -/
def absentBad (n lvl : Nat) (w0 w1 : Word) : Bool :=
  let alloc := bitAt w0 3
  let park := bitAt w0 2
  if !alloc && !park then false
  else alloc && park || alloc && lvl != 0 || shapeBad n lvl w0 w1 || fld w0 43 16 != 0

/-- Drop every held translation of the package (R135). -/
def State.flushXlate (s : State) : State :=
  let s := s.onTile fun t => { t with tlb := [] }
  { s with others := s.others.map (fun e => (e.1, { e.2 with tlb := [] })), dies := s.dies.map fun d => { d with tcache := [] } }

/-- ReadEntry (R135) of the entry at `a` of block `blk` by the walker of die `d`: primary, else twin, else the block
joins the poison list. -/
def State.readEntry (s : State) (d blk a : Nat) : State × Option (Word × Word) :=
  if !s.uncorrectable a 16 then (s, some (s.home64 a, s.home64 (a + 8)))
  else
    let b := a + 0x1000
    if !s.uncorrectable b 16 then
      (s.modDie d fun x => { x with twinused := true, twinrec := BitVec.ofNat 64 blk }, some (s.home64 b, s.home64 (b + 8)))
    else
      let s := if s.poison.contains blk then s
        else if s.poison.length < 64 then { s with poison := insertNat blk s.poison } else { s with povf := true }
      (s.flushXlate, none)

/-- Poisoned(blk), which holds of every block once the list has overflowed (R136). -/
def State.poisoned (s : State) (blk : Nat) : Bool := s.povf || s.poison.contains blk

/-- The version of an entry that a walk uses: where the translation cache holds another version, either (R132). -/
def State.cachedEntry (s : State) (d a : Nat) (e : Word × Word) : State × (Word × Word) :=
  match (s.die d).tcache.find? (fun x => x.1 == a) with
  | none => (s, e)
  | some (_, h, _) => if h == e then (s, e) else (s.tick, if Config.useHeld s.free then h else e)

/-- Hold a valid entry, to which a walk has come through `blocks`, in the translation cache of 32,768 places (R132, R133). -/
def State.holdEntry (s : State) (d a : Nat) (e : Word × Word) (blocks : List Nat) : State :=
  s.modDie d fun x =>
    let old := match x.tcache.find? fun y => y.1 == a with | some y => if y.2.1 == e then y.2.2 else [] | none => []
    let b := blocks.foldl (fun l k => insertNat k l) old
    if x.tcache.contains (a, e, b) then x
    else
      let l := x.tcache.filter fun y => y.1 != a
      { x with tcache := (a, e, b) :: l.take 32767 }

/-- Translate (R125) from level `k` − 1 down; `n` is the tile count of the partition.  A root block that lies outside memory is read and
walked like any other (DESIGN CHOICE, log 118). -/
def walkFrom (d n va : Nat) : Nat → Nat → List Nat → State → State × WalkEnd
  | 0, _, _, s => (s, .fault causePagePerm)
  | k + 1, blk, seen, s =>
    if s.poisoned blk then (s, .fault causePoisonXlate)
    else
      let a := blk + walkIndex k va * 16
      match s.readEntry d blk a with
      | (s, none) => (s, .fault causePoisonXlate)
      | (s, some e) =>
        let (s, (w0, w1)) := s.cachedEntry d a e
        match fld w0 1 0 with
        | 0 => if absentBad n k w0 w1 then (s, .fault causePagePerm) else (s, .absent w0 w1 k a)
        | 1 =>
          if k == 0 || pointerBad w0 w1 then (s, .fault causePagePerm)
          else walkFrom d n va k (fld w0 43 13 * 2 ^ 13) (blk :: seen) (s.holdEntry d a (w0, w1) (blk :: seen))
        | 2 =>
          if 1 < k || leafBad n k w0 w1 then (s, .fault causePagePerm)
          else (s.holdEntry d a (w0, w1) (blk :: seen), .leaf w0 w1 k (blk :: seen))
        | _ => (s, .fault causePagePerm)

/-- The walk of a paged address under a page-table root (R125). -/
def State.walk (s : State) (d n : Nat) (root : Word) (va : Nat) : State × WalkEnd :=
  walkFrom d n va 5 (fld root 43 13 * 2 ^ 13) [] s

/-- A leaf in use: its words and whether it maps 2 MiB. -/
structure Leaf where
  w0 : Word
  w1 : Word
  big : Bool
deriving DecidableEq, Repr

/-- Bytes of the page. -/
def Leaf.size (l : Leaf) : Nat := if l.big then 0x200000 else 0x10000
/-- The physical address of an address in the page. -/
def Leaf.pa (l : Leaf) (va : Nat) : Nat := fld l.w0 43 16 * 2 ^ 16 + va % l.size
def Leaf.gen (l : Leaf) : Byte := BitVec.ofNat 8 (fld l.w0 63 56)
def Leaf.fmt (l : Leaf) : Nat := fld l.w1 63 60
def Leaf.rdev (l : Leaf) : Nat := fld l.w1 43 32
def Leaf.system (l : Leaf) : Bool := fld l.w0 7 6 == 1

/-! ### Generations and migration (R139) -/

/-- Where the frame record of a memory address lies, by FMBASE of its home die; of LPDDR, of die 0 (R137, DESIGN CHOICE, log 100). -/
def State.frameRec (s : State) (a : Nat) : Nat :=
  let b := (s.die (if isNear a then homeDie a else 0)).fmbase.toNat
  b + (if a < 0x10000000000 then a / 0x10000 else 0x200000 + (a - 0x10000000000) / 0x10000) * 32

/-- A home's answer to an access. -/
inductive HomeAns
  | apply
  | stale
  | redirect (pa : Nat) (gen : Byte) (ndev : BitVec 12)
  | again
deriving DecidableEq, Repr

/-- The answer of the home of `pa` to an access with a generation (R139).  A die whose FMBASE is zero keeps no frame
records, and every access is applied (DEDUCED, log 15). -/
def State.homeAnswer (s : State) (pa : Nat) (gen : Byte) (redirected : Bool) : HomeAns :=
  let d := if isNear pa then homeDie pa else 0
  if (s.die d).fmbase == 0 then .apply
  else
    let w := s.home64 (s.frameRec pa)
    if fld w 27 20 != gen.toNat then .stale
    else
      match fld w 31 28 with
      | 1 =>
        match (List.range 4).findSome? fun k => match (s.die k).mig with
            | some m => if m.old == pa / 0x10000 * 0x10000 && m.oldState == 1 then some m else none
            | none => none with
        | some m => .redirect (m.new + pa % 0x10000) m.ngen m.ndev
        | none => .again
      | 2 => .again
      | 3 => if redirected then .apply else .again
      | 4 => .stale
      | _ => .apply

/-! ### The owner and the ranges of memory that it alone writes (R278, R279) -/

/-- Whether a write of a kind is the owner's: 1 this device's host and privileged tasks, 2 the management controller, 3 a
peer with its DEVID (R279). -/
def HostDie.isOwner (x : HostDie) (kind : Nat) (dev : BitVec 12) : Bool :=
  kind != 0 && fld x.owner 63 62 == kind && (kind != 3 || fld x.owner 61 50 == dev.toNat)

/-- A write that is not the owner's is dropped and counted (R279). -/
def State.refuse (s : State) : State := s.modHost fun x => { x with refused := satAdd x.refused 1 }

/-- By what a write is made: its OKIND, 0 for an unprivileged task, and the DEVID of a peer (R279). -/
structure By where
  kind : Nat
  dev : BitVec 12
deriving DecidableEq, Repr

/-- A task, or an engine of it. -/
def Ident.by_ (w : Ident) : By := ⟨if w.priv then 1 else 0, 0⟩

/-- Whether an address lies in the context table or the tenant records (R279). -/
def State.ownRange (s : State) (a : Nat) : Bool :=
  let c := s.host.ctxbase.toNat
  let t := s.host.tenbase.toNat
  c != 0 && c ≤ a && a < c + 0x400000 || t != 0 && t ≤ a && a < t + 0x800000

/-! ### Accesses of the agents of a context (R423) -/

/-- An agent that acts for a context: the die whose walker it uses, for whom, the context's partition, and the translations that a
transfer in progress keeps (R133). -/
structure Agent where
  die : Nat
  who : Ident
  part : Nat
  keep : List TlbEntry
deriving DecidableEq, Repr

/-- The agents of a context with the bases of its context-table entry (R20, R423). -/
def State.agent (s : State) (d : Nat) (ctx : BitVec 16) : Agent := ⟨d, s.agentOf ctx 0 0, s.ctxPart ctx, []⟩

/-- Where an agent's access goes: the map of this device, or a frame of another one (R126, R269). -/
inductive Spot
  | here (pa : Nat)
  | there (pdev : BitVec 12) (rctx : BitVec 16) (slot : BitVec 10) (pa : Nat) (gen : Byte)
  /-- A write that its home answers STALE: it is dropped (R139). -/
  | stale
deriving DecidableEq, Repr

/-- An agent waits for a home (R139, DESIGN CHOICE, log 14). -/
def State.stall (s : State) : State × Except Byte Spot := ({ s with stalled := true }, .error causeRouteDown)

/-- A page of this device as its home answers an agent (R139). -/
def State.agentHome (s : State) (g : Agent) (pa : Nat) (gen : Byte) (wr : Bool) : State × Except Byte Spot :=
  match s.homeAnswer pa gen false with
  | .apply => (s, .ok (.here pa))
  | .stale => if wr then (s.modDie (homeDie pa) fun x => { x with stale := true }, .ok .stale) else (s, .error causePageAbsent)
  | .again => s.stall
  | .redirect p ng nd =>
    if s.undrained (pa / 0x10000 * 0x10000) 0x10000 then s.stall
    else if nd == 0xFFF then
      match s.homeAnswer p ng true with
      | .apply => (s, .ok (.here p))
      | _ => s.stall
    else
      match s.device g.who.ctx nd.toNat with
      | some (.there d c k) => (s, .ok (.there d c k p ng))
      | _ => (s, .error causeRouteBad)

/-- The place of a local address that an agent reads or writes, checked by the walk and by RD, or WR and KVSH; flat addresses
are those of the context's partition (R102, R423). -/
def State.agentSpot (s : State) (g : Agent) (a : Nat) (wr : Bool) : State × Except Byte Spot :=
  match spaceOf a with
  | .flat sl off =>
    match s.virt g.part sl with
    | some t => if off < sliceBytes then (s, .ok (.here (sliceBase t + off))) else (s, .error causePagePerm)
    | none => (s, .error causePagePerm)
  | .paged =>
    match s.walk g.die (s.partCount g.part) g.who.root a with
    | (s, .leaf w0 w1 lvl _) =>
      let l : Leaf := ⟨w0, w1, lvl == 1⟩
      if !(if wr then bitAt w0 9 && !bitAt w1 54 else bitAt w0 8) then (s, .error causePagePerm)
      else
        match s.device g.who.ctx l.rdev with
        | none => (s, .error causeRouteBad)
        | some .here => s.agentHome g (l.pa a) l.gen wr
        | some (.there p c k) => (s, .ok (.there p c k (l.pa a) l.gen))
    | (s, .absent ..) => (s, .error causePageAbsent)
    | (s, .fault c) => (s, .error c)
  | _ => (s, .error causePagePerm)

/-- The physical address in the map of an address that an agent reaches on this device. -/
def State.agentPa (s : State) (g : Agent) (a : Nat) (wr : Bool) : State × Except Byte Nat :=
  match s.agentSpot g a wr with
  | (s, .ok (.here pa)) => (s, .ok pa)
  | (s, .ok _) => (s, .error causePagePerm)
  | (s, .error c) => (s, .error c)

/-- A 64-bit read of an agent; an uncorrectable word is POISON_DATA (R252).  A word of another device that has not been read
yet is a need: the operation waits and runs again once it is there (R55, DESIGN CHOICE, log 14). (DEDUCED, log 88) -/
def State.agentRead (s : State) (g : Agent) (a : Nat) : State × Except Byte Word :=
  match s.agentSpot g a false with
  | (s, .error c) => (s, .error c)
  | (s, .ok .stale) => (s, .error causePageAbsent)
  | (s, .ok (.here pa)) =>
    let (s, bad) := s.sense pa 8
    (s, if bad then .error causePoisonData else .ok (s.home64 pa))
  | (s, .ok (.there p c k pa gen)) =>
    match s.pulled.find? fun x => x.ctx == g.who.ctx && x.va == a with
    | some x =>
      let s := { s with pulled := mapIf (fun y => y.ctx == x.ctx && y.va == a) (fun y => { y with used := true }) s.pulled }
      (s, if x.cause == 0 then .ok x.word else .error x.cause)
    | none =>
      let q : Request := ⟨0x01, BitVec.ofNat 64 a, p, c, k, pa, some gen, 3, 0, 0, []⟩
      ({ s with needs := s.needs ++ [(g.who.ctx, a, q)] }, .error causeRouteDown)

/-- Read `n` consecutive 64-bit words; the first failure decides. -/
def State.agentReads (s : State) (g : Agent) (a : Nat) : Nat → State × Except Byte (List Word)
  | 0 => (s, .ok [])
  | n + 1 =>
    match s.agentRead g a with
    | (s, .error c) => (s, .error c)
    | (s, .ok w) =>
      match s.agentReads g (a + 8) n with
      | (s, .error c) => (s, .error c)
      | (s, .ok r) => (s, .ok (w :: r))

/-- A write of an agent at its place on this device: dropped in a range of the owner where its task is not the owner's (R279). -/
def State.agentStore (s : State) (g : Agent) (pa : Nat) (v : Word) : State :=
  if s.ownRange pa && !s.host.isOwner g.who.by_.kind g.who.by_.dev then s.refuse else s.homeWrite64 pa v

/-- A 64-bit write of an agent, nothing where it is refused; the answer says whether it was made. -/
def State.agentWrite (s : State) (g : Agent) (a : Nat) (v : Word) : State × Bool :=
  match s.agentSpot g a true with
  | (s, .error _) => (s, false)
  | (s, .ok .stale) => (s, true)
  | (s, .ok (.here pa)) => (s.agentStore g pa v, true)
  | (s, .ok (.there p c k pa gen)) =>
    let q : Request := ⟨0x02, BitVec.ofNat 64 a, p, c, k, pa, some gen, 3, 0, 0, toBytes 8 v.toNat⟩
    ({ s with posts := s.posts ++ [q], pulled := mapIf (fun y => y.ctx == g.who.ctx && y.va == a) (fun y => { y with word := v }) s.pulled },
     true)

/-- An operation of agents: where it meets a word of another device that has not been read, or a RETRY of a home, nothing of it happens
but that read's being asked for (R55, R139, DESIGN CHOICE, log 14). -/
def State.attempt (s : State) (f : State → State) : State :=
  let s1 := f { s with needs := [], stalled := false }
  if s1.needs.isEmpty && !s1.stalled then { s1 with needs := s.needs, pulled := s1.pulled.filter fun x => !x.used }
  else { s with needs := s.needs ++ s1.needs, stalled := s1.stalled }

/-- The leaves that map a part of [lo, hi), as (page address, leaf), below a table block of level `k` − 1 that starts at
`va`. -/
def leavesFrom (s : State) (n lo hi : Nat) : Nat → Nat → Nat → List (Nat × Leaf)
  | 0, _, _ => []
  | k + 1, blk, va =>
    let span := match k with | 4 => 2 ^ 45 | 3 => 2 ^ 37 | 2 => 2 ^ 29 | 1 => 2 ^ 21 | _ => 2 ^ 16
    let cnt := match k with | 4 => 128 | 0 => 32 | _ => 256
    let first := (lo - va) / span
    let last := min cnt (ceilDiv (hi - va) span)
    ((List.range (last - first)).map (fun i => first + i)).flatMap fun i =>
      let a := blk + i * 16
      let w0 := s.home64 a
      let w1 := s.home64 (a + 8)
      match fld w0 1 0 with
      | 1 => if k == 0 || pointerBad w0 w1 then [] else leavesFrom s n lo hi k (fld w0 43 13 * 2 ^ 13) (va + i * span)
      | 2 => if 1 < k || leafBad n k w0 w1 then [] else [(va + i * span, ⟨w0, w1, k == 1⟩)]
      | _ => []

/-- The leaves of a context that map a part of [lo, hi). -/
def State.leaves (s : State) (g : Agent) (lo hi : Nat) : List (Nat × Leaf) :=
  leavesFrom s (s.partCount g.part) lo hi 5 (fld g.who.root 43 13 * 2 ^ 13) 0

/-- Whether a leaf names memory of another device (R126, R259). -/
def State.leafAway (s : State) (g : Agent) (l : Leaf) : Bool := match s.device g.who.ctx l.rdev with | some (.there ..) => true | _ => false

/-- The rows of a table of `cnt` rows of `n` bytes from `b` on whose byte `k` lies in memory of another device, ascending. -/
def State.farRows (s : State) (g : Agent) (b n cnt k : Nat) : List Nat :=
  ((s.leaves g b (b + n * cnt)).filter fun x => s.leafAway g x.2).flatMap fun x =>
    let lo := ceilDiv (x.1 - (b + k)) n
    let hi := min cnt (ceilDiv (x.1 + x.2.size - (b + k)) n)
    (List.range (hi - lo)).map fun i => lo + i

/-- The local address of a byte of a partition's slices (R102). -/
def State.flatVa (s : State) (part c : Nat) : Option Nat :=
  if isSlice c then
    match s.place (sliceTile c) with
    | some (p, v) => if p = part then some (v * 0x400000 + sliceOff c) else none
    | none => none
  else none

/-- The local addresses in [lo, hi) of a context, flat or paged, at which a listed or undrained byte satisfies `f`, ascending. -/
def State.findBytes (s : State) (g : Agent) (lo hi : Nat) (f : Nat → Byte → Bool) : List Nat :=
  let cand := s.mem.map (·.1) ++ s.wb.flatMap fun st => st.cells.map (·.1)
  let take := fun (acc : List Nat) (va c : Nat) =>
    if lo ≤ va && va < hi && f va (overStores c (Memory.byte s.mem c) s.wb) then insertNat va acc else acc
  let flat := cand.foldl (fun acc c => match s.flatVa g.part c with | some va => take acc va c | none => acc) []
  ((s.leaves g lo hi).filter fun x => !s.leafAway g x.2).foldl (fun acc x =>
    let pb := x.2.pa x.1
    cand.foldl (fun acc c => if pb ≤ c && c < pb + x.2.size then take acc (x.1 + (c - pb)) c else acc) acc) flat

end Sys2Proof.Machine
end

