-- ==== Sys2Proof/Machine/Region.lean ====
section
/-! DEFINITION. Region control blocks (R35 to R39): fields with inheritance, budgets and charges, states, the end of a
region (R38, R138), cancellation (R57) and the teardown of a hardware queue (R41, R252). -/

namespace Sys2Proof.Machine
open Sys2Proof

/-- A computation of an agent over the state. -/
abbrev M := StateM State

/-- A state function with an answer, as a computation. -/
def ask {α : Type} (f : State → State × α) : M α := fun s => let r := f s; (r.2, r.1)

/-! ### Fields -/

/-- Address of word `k` of the RCB of region `r` (R35). -/
def rcbAddr (g : Agent) (r k : Nat) : Nat := g.who.rgnbase.toNat + r * 256 + k * 8

/-- Word `k` of an RCB. -/
def rcbWord (g : Agent) (r k : Nat) : M (Except Byte Word) := ask fun s => s.agentRead g (rcbAddr g r k)

/-- Write word `k` of an RCB. -/
def rcbPut (g : Agent) (r k : Nat) (v : Word) : M Bool := ask fun s => s.agentWrite g (rcbAddr g r k) v

/-- STATE of a region: 0 FREE, 1 ACTIVE, 2 CANCELLING, 3 CLOSED; none where its RCB cannot be read. -/
def rcbState (g : Agent) (r : Nat) : M (Option Nat) := do
  match ← rcbWord g r 0 with
  | .ok w => return some (fld w 63 56)
  | .error _ => return none

/-- One region on the way to the root, by number, with words 0 to 5 and 10 of its RCB. -/
structure Rung where
  r : Nat
  w : List Word
deriving DecidableEq, Repr

/-- A region's number among those of every context. -/
def regionKey (g : Agent) (r : Nat) : Nat := g.who.ctx.toNat * 2 ^ 32 + r

/-- What stands for the ancestors of a region whose chain of parents ends at no root: free values (R35, DESIGN CHOICE, log 43).  Its number is that of
no region. -/
def ghost (now key : Nat) : Rung :=
  ⟨2 ^ 32, (List.range 11).map fun k => Config.brokenWord now key k ||| if k == 0 then 0xFFFFFFFF else 0⟩
def Rung.isGhost (x : Rung) : Bool := x.r == 2 ^ 32

/-- A region and its ancestors as far as the chain of parents can be followed, and whether it ends at a root: it does not where it
loops, meets a FREE region, or names one that cannot be read (R35).  None where the region itself cannot be read. (DEDUCED, log 76) -/
def chainFrom (g : Agent) : Nat → List Nat → Nat → M (Option (List Rung × Bool))
  | 0, _, _ => return none
  | k + 1, seen, r => do
    match ← ask fun s => s.agentReads g (rcbAddr g r 0) 11 with
    | .error _ => return none
    | .ok w =>
      let w0 := w.getD 0 0
      if fld w0 63 56 == 0 || seen.contains r then return some ([⟨r, w⟩], false)
      else if fld w0 31 0 == 0xFFFFFFFF then return some ([⟨r, w⟩], true)
      else
        match ← chainFrom g k (r :: seen) (fld w0 31 0) with
        | none => return some ([⟨r, w⟩], false)
        | some (l, b) => return some (⟨r, w⟩ :: l, b)

/-- The chain of a region up to its root; where it ends at no root, the region, then the free values, then the other regions that were
reached (R35). -/
def chain (g : Agent) (r : Nat) : M (Option (List Rung)) := do
  match ← chainFrom g (2 ^ 32) [] r with
  | none => return none
  | some (l, true) => return some l
  | some (l, false) => return some (l.take 1 ++ ghost (← get).now (regionKey g r) :: l.drop 1)

/-- Whether a chain ends at no root. -/
def broken (l : List Rung) : Bool := l.any Rung.isGhost

/-- Whether a rung's own field of override bit `b` is effective: its bit is set, or it is the root (R36). -/
def Rung.own (x : Rung) (b : Nat) : Bool := bitAt (x.w.getD 1 0) (48 + b) || fld (x.w.getD 0 0) 31 0 == 0xFFFFFFFF

/-- The rung whose field of override bit `b` is effective (R36). -/
def effRung (b : Nat) : List Rung → Option Rung
  | [] => none
  | x :: l => if x.own b then some x else effRung b l

/-- Bits [hi:lo] of word `k` of the rung whose field of override bit `b` is effective. -/
def effField (b k hi lo : Nat) (l : List Rung) : Nat :=
  match effRung b l with
  | some x => fld (x.w.getD k 0) hi lo
  | none => 0

/-- Word 0 of the root to which the chain of parents of a region leads, by word 0 of each RCB alone; inside, none where it ends at no
root (R35).  None where the region's own cannot be read. -/
def rootFrom (g : Agent) : Nat → List Nat → Nat → M (Option (Option Word))
  | 0, _, _ => return none
  | k + 1, seen, r => do
    match ← rcbWord g r 0 with
    | .error _ => return none
    | .ok w =>
      if fld w 63 56 == 0 || seen.contains r then return some none
      else if fld w 31 0 == 0xFFFFFFFF then return some (some w)
      else
        match ← rootFrom g k (r :: seen) (fld w 31 0) with
        | none => return some none
        | some x => return some x

/-- The root's queue of a region (R35). -/
def rootQueue (g : Agent) (r : Nat) : M (Option Nat) := do
  match ← rootFrom g (2 ^ 32) [] r with
  | none => return none
  | some (some w) => return some (fld w 47 32)
  | some none => return some (fld ((ghost (← get).now (regionKey g r)).w.getD 0 0) 47 32)

/-- EffKey (R45). -/
def effKey (key : BitVec 32) (base : Nat) : BitVec 32 :=
  BitVec.ofNat 32 (clampInt ((key.toNat : Int) + signedOf 32 base) 0 0xFFFFFFFF).toNat

/-! ### Budgets (R36) -/

/-- The budgets. -/
inductive Budget | tiles | queue | nsm | kv | sram
deriving DecidableEq, Repr

/-- Override bit; word and bits of the budget; word and bits of the use (R35, R36). -/
def Budget.bit : Budget → Nat
  | .tiles => 6 | .queue => 7 | .nsm => 8 | .kv => 9 | .sram => 10
def Budget.limit : Budget → Nat × Nat × Nat
  | .tiles => (3, 15, 0) | .queue => (4, 31, 0) | .nsm => (4, 63, 32) | .kv => (5, 31, 0) | .sram => (5, 63, 32)
def Budget.used : Budget → Nat × Nat × Nat
  | .tiles => (6, 15, 0) | .queue => (6, 63, 32) | .nsm => (7, 31, 0) | .kv => (7, 63, 32) | .sram => (8, 31, 0)

/-- The region nearest the one named whose budget does not fit `n` more; none when every budget fits. -/
def budgetMiss (b : Budget) (n : Nat) : List Rung → Option Nat
  | [] => none
  | x :: l =>
    let (lk, lh, ll) := b.limit
    let (uk, uh, ul) := b.used
    if x.own b.bit && fld (x.w.getD lk 0) lh ll < fld (x.w.getD uk 0) uh ul + n then some x.r else budgetMiss b n l

/-- Whether a use of `n` fits every budget on the way to the root; the answer names the region that does not fit. -/
def fitsBudget (g : Agent) (b : Budget) (r n : Nat) : M (Option Nat) := do
  match ← chain g r with
  | none => return some r
  | some l =>
    if broken l then return if Config.brokenHolds (← get).now (regionKey g r) b.bit then none else some r
    else return budgetMiss b n l

/-- Add to a field of an RCB, within the field's range; false where the RCB cannot be read or written (R423). -/
def rcbAdd (g : Agent) (r k hi lo : Nat) (d : Int) : M Bool := do
  match ← rcbWord g r k with
  | .error _ => return false
  | .ok w =>
    let x := clampInt ((fld w hi lo : Int) + d) 0 (2 ^ (hi + 1 - lo) - 1 : Nat)
    rcbPut g r k (setFld w hi lo x.toNat)

/-- A free value in the use field of a region on a chain that ends at no root (R35, DESIGN CHOICE, log 43). -/
def rcbFree (g : Agent) (b : Budget) (r : Nat) : M Bool := do
  match ← rcbWord g r b.used.1 with
  | .error _ => return false
  | .ok w => rcbPut g r b.used.1 (setFld w b.used.2.1 b.used.2.2 (Config.brokenUse (← get).now (regionKey g r)))

/-- Charge `d` to the region and each ancestor (R36); false where an RCB refused it.  The use fields of a FREE region are not kept
(R35). -/
def charge (g : Agent) (b : Budget) (r : Nat) (d : Int) : M Bool := do
  match ← chain g r with
  | none => return false
  | some l =>
    let (k, hi, lo) := b.used
    if broken l then
      (l.filter fun x => !x.isGhost && fld (x.w.getD 0 0) 63 56 != 0).foldlM (fun ok x => do let y ← rcbFree g b x.r; return ok && y) true
    else l.foldlM (fun ok x => do let y ← rcbAdd g x.r k hi lo d; return ok && y) true

/-- Add to NRUN (R35). -/
def addNrun (g : Agent) (r : Nat) (d : Int) : M Bool := rcbAdd g r 8 63 32 d

/-! ### Regions of a table -/

/-- The rows of a table whose byte `k` lies in memory of another device and satisfies `f`: each is read (R268, R423). -/
def farHits (g : Agent) (b n cnt k : Nat) (f : Byte → Bool) : M (List Nat) := do
  ((← get).farRows g b n cnt k).filterM fun i => do
    match ← ask fun s => s.agentRead g (b + i * n + k / 8 * 8) with
    | .ok w => return f ((toBytes 8 w.toNat).getD (k % 8) 0)
    | .error _ => return false

/-- The regions of the context's table whose STATE is `st`, ascending. -/
def regionsIn (g : Agent) (st : Nat) : M (List Nat) := fun s =>
  let b := g.who.rgnbase.toNat
  let l := (s.findBytes g b (b + 2 ^ 40) fun va x => (va - b) % 256 == 7 && x.toNat == st).map fun va => (va - b) / 256
  let (m, s) := farHits g b 256 (2 ^ 32) 7 (fun x => x.toNat == st) s
  (m.foldl (fun a r => insertNat r a) l, s)

/-- Whether `r` is `top` or a descendant of it. -/
def under (g : Agent) (top r : Nat) : M Bool := do
  match ← chain g r with
  | none => return r == top
  | some l =>
    if broken l then return r == top || Config.brokenHolds (← get).now (regionKey g r) (2 ^ 16 + top)
    else return l.any fun x => x.r == top

/-! ### The KV pool (R128, R138, R140) -/

/-- Pop a frame from a die's KV pool. -/
def popKv (d : Nat) : M (Option Nat) := fun s =>
  let x := s.die d
  if x.kvpoolcnt == 0 then (none, s)
  else
    let c := x.kvpoolcnt.toNat - 1
    (some (s.home64 (x.kvpoolbase.toNat + c * 8)).toNat, s.modDie d fun x => { x with kvpoolcnt := BitVec.ofNat 32 c })

/-- Whether a frame lies in the KV arena of a die (R140). -/
def Die.inArena (x : Die) (f : Nat) : Bool :=
  let b := x.kvarena.toNat * 0x10000
  b ≤ f && f < b + x.kvframes.toNat * 0x10000

/-- Push a frame address onto a die's KV pool: outside the arena, or beyond the capacity, KVBAD (R138, R140). -/
def pushKv (d f : Nat) : M Unit := fun s =>
  let x := s.die d
  if !x.inArena f || x.kvpoolcap ≤ x.kvpoolcnt then ((), s.modDie d fun x => { x with kvbad := true })
  else
    ((), (s.homeWrite64 (x.kvpoolbase.toNat + x.kvpoolcnt.toNat * 8) (BitVec.ofNat 64 f)).modDie d
      fun x => { x with kvpoolcnt := x.kvpoolcnt + 1 })

/-! ### TLBI (R133) -/

/-- The held translations that a TLBI drops (R133). -/
def tlbiDrops (scope : BitVec 2) (ctx : BitVec 16) (va : Word) (e : TlbEntry) : Bool :=
  match scope.toNat with
  | 0 => e.ctx == ctx
  | 1 =>
    let a := fld va 51 0
    e.ctx == ctx && (if e.big then e.vpn.toNat / 32 == a / 0x200000 else e.vpn.toNat == a / 0x10000)
  | _ => e.blocks.contains va.toNat

/-- The entries that stay in a translation cache: for a table, those to which no walk has come through it; else none, for they carry
no context (R132, R133, DESIGN CHOICE, log 8). -/
def tlbiKeeps (scope : BitVec 2) (va : Word) (e : Nat × (Word × Word) × List Nat) : Bool :=
  scope.toNat == 2 && !e.2.2.contains va.toNat

/-- A tile when a TLBI is performed: the translations go, and open chunks that used one are squashed without an advance of
CHKST; `extra` squashes the others too (R133). -/
def Tile.tlbi (t : Tile) (now : Nat) (f : TlbEntry → Bool) (extra : Bool) : Tile :=
  let hit := fun (c : Option Chunk) => match c with | some c => extra || c.xlate.any f | none => false
  let t1 := { t with tlb := t.tlb.filter fun e => !f e }
  if hit t.older then t1.squash now true false none
  else if hit t.cur then t1.squash now false false none
  else t1

/-- A TLBI is performed in the package (R133). -/
def State.invalidate (s : State) (scope : BitVec 2) (ctx : BitVec 16) (va : Word) : State :=
  let k := s.free
  let s := s.tick
  let s : State := s.tiles.foldl (fun s u => s.modTile u fun x => x.tlbi s.now (tlbiDrops scope ctx va) (Config.tlbiSquash k u)) s
  { s with dies := s.dies.map fun (d : Die) => { d with tcache := d.tcache.filter (tlbiKeeps scope va) } }

/-! ### The end of a region (R38, R138) -/

/-- The owner's leaf of a 64 KiB page in a context's tables, by its address (R125); none where there is none. -/
def leafEntry (s : State) (va : Nat) : Nat → Nat → Option Nat
  | 0, _ => none
  | k + 1, blk =>
    let a := blk + walkIndex k va * 16
    match fld (s.home64 a) 1 0 with
    | 1 => if k == 0 then none else leafEntry s va k (fld (s.home64 a) 43 13 * 2 ^ 13)
    | 2 => if k == 0 then some a else none
    | _ => none

/-- One frame record of the KV arena, at the closing of region `r`: where the region owns the frame, both copies of the owner's leaf
are cleared, its translations are invalidated, the charge goes, and the last holder's frame returns to the pool (R138).  False where an
RCB refused the charge. -/
def closeFrame (g : Agent) (d f r : Nat) : M Bool := do
  let s ← get
  let a := s.frameRec f
  let w0 := s.home64 a
  let w1 := s.home64 (a + 8)
  if fld w0 63 32 != 0 && fld w1 63 48 == g.who.ctx.toNat && fld (s.home64 (a + 16)) 31 0 == r then
    let va := fld w1 35 0 * 0x10000
    match leafEntry s va 5 (fld g.who.root 43 13 * 2 ^ 13) with
    | some e => modify fun s => ((s.homeWrite e (toBytes 16 0)).homeWrite (e + 0x1000) (toBytes 16 0))
    | none => pure ()
    modify fun s => s.invalidate 1 g.who.ctx (BitVec.ofNat 64 va)
    let ok ← charge g .kv r (-1)
    modify fun s => s.homeWrite64 a (setFld w0 63 32 (fld w0 63 32 - 1))
    if fld w0 63 32 == 1 then pushKv d f
    return ok
  else return true

/-- All of a list of computations, and whether each said so. -/
def allOk {α : Type} (f : α → M Bool) (l : List α) : M Bool := l.foldlM (fun ok x => do let y ← f x; return ok && y) true

/-- Remove the KV frames of a closing region: the scan of R138 over every arena. -/
def closeFrames (g : Agent) (r : Nat) : M Bool := do
  let s ← get
  allOk (fun d => let x := s.die d
    allOk (fun i => closeFrame g d ((x.kvarena.toNat + i) * 0x10000) r) (List.range x.kvframes.toNat)) (List.range 4)

/-- Return a node to the pool: its tag goes, ALLOC is cleared (R208). -/
def State.freeNode (s : State) (n : Nat) : State :=
  let w := s.home64 (nodeBase n)
  { (s.homeWrite64 (nodeBase n) (setFld w 52 52 0)) with nodes := Assoc.drop n s.nodes }

/-- Remove the nodes of a closing region (R38, R208). -/
def closeNodes (g : Agent) (r : Nat) : M Bool := do
  let s ← get
  allOk (fun (e : Nat × NodeTag) => do
    if e.2.ctx == g.who.ctx && e.2.region.toNat == r then do
      modify fun s => s.freeNode e.1
      charge g .nsm r (-1)
    else return true) s.nodes

/-- CANCELLING to CLOSED once NRUN is zero: nodes and pages return to the pools, charges leave every ancestor (R38).  False where an
access to an RCB has failed. -/
def tryClose (g : Agent) (r : Nat) : M Bool := do
  match ← rcbWord g r 0, ← rcbWord g r 8 with
  | .ok w0, .ok w8 =>
    if fld w0 63 56 == 2 && fld w8 63 32 == 0 then
      let a ← closeNodes g r
      let b ← closeFrames g r
      let own := (← get).pinned.filter fun x => x.1 == g.who.ctx && x.2.1.toNat == r
      let c ← if own.isEmpty then pure true else charge g .sram r (-((own.map fun x => x.2.2).sum : Int))
      modify fun s => { s with pinned := s.pinned.filter fun x => !(x.1 == g.who.ctx && x.2.1.toNat == r) }
      match ← rcbWord g r 0 with
      | .ok w => do
        let e ← rcbPut g r 0 (setFld w 63 56 3)
        return a && b && c && e
      | .error _ => return false
    else return true
  | _, _ => return false

/-! ### Revocation (R57) -/

/-- Whether an entry belongs to a context and satisfies a test of its region. -/
def Entry.of (e : Entry) (ctx : BitVec 16) (f : Nat → Bool) : Bool := e.ctx == ctx && f e.blk.region.toNat

/-- A backlog with one entry more, in SEQ order (R60). -/
def queueIn (l : List Entry) (e : Entry) : List Entry := insertBy (fun a b => seqBefore a.seq b.seq) e l

/-- A member enters the collecting slot: the first one sets the close point (R60). -/
def ChClass.enter (c : ChClass) (cyc : Nat) (e : Entry) : ChClass :=
  { c with collecting := c.collecting ++ [e], closeAt := if c.collecting.isEmpty then some (cyc + c.window.toNat) else c.closeAt }

/-- The next thing that happens to a class by itself in a cycle: the collecting slot closes by size or window, a closed slot
moves into the closing slot, a backlog entry enters the collecting slot (R60). -/
def ChClass.next (c : ChClass) (cyc : Nat) : Option ChClass :=
  match c.closed with
  | some k =>
    if c.closing.isEmpty then some { c with closing := c.collecting, closeCycle := k, collecting := [], closed := none, closeAt := none }
    else none
  | none =>
    let due := match c.closeAt with | some p => decide (p ≤ cyc) | none => false
    if !c.collecting.isEmpty && (c.bsize.toNat ≤ c.collecting.length || due) then some { c with closed := some cyc }
    else
      match c.backlog with
      | e :: r => if c.collecting.length < c.bsize.toNat then some ({ c with backlog := r }.enter cyc e) else none
      | [] => none

/-- All that happens to a class by itself in a cycle. -/
def ChClass.settleFor (cyc : Nat) : Nat → ChClass → ChClass
  | 0, c => c
  | n + 1, c => match c.next cyc with | some d => ChClass.settleFor cyc n d | none => c
def ChClass.settle (c : ChClass) (cyc : Nat) : ChClass := ChClass.settleFor cyc (c.backlog.length + 4) c

/-- Whether an arrival goes into the collecting slot at once: else it joins the backlog (R60). -/
def ChClass.entersNow (c : ChClass) : Bool := c.closed.isNone && c.backlog.isEmpty && c.collecting.length < c.bsize.toNat

/-- A class without the queued members `f` selects: a closed slot belongs to its batch, a close of the cycle comes first, and
backlog entries take the room (R57, R58, R60). -/
def ChClass.revoke (c : ChClass) (f : Entry → Bool) (cyc : Nat) : ChClass :=
  let col := if c.closed.isSome then c.collecting else c.collecting.filter fun e => !f e
  { c with collecting := col, backlog := c.backlog.filter fun e => !f e, closeAt := if col.isEmpty then none else c.closeAt }.settle cyc

/-- A die whose Chorus has made the closes of its cycle. -/
def Die.settle (x : Die) : Die := { x with ch := x.ch.map fun c => c.settle x.cyc.toNat }

/-- The queued and parked entries of a die that `f` selects (R57). -/
def Die.revocable (x : Die) (f : Entry → Bool) : List Entry :=
  (x.heap ++ x.moves.map (·.2) ++ x.buckets.flatMap (·.2) ++ x.chIn ++ (x.parked.map (·.entry))
    ++ x.ch.toList.flatMap fun c => (if c.closed.isSome then [] else c.collecting) ++ c.backlog).filter f

/-- A die without them. -/
def Die.revoke (x : Die) (f : Entry → Bool) : Die :=
  { x with
    heap := x.heap.filter fun e => !f e
    moves := x.moves.filter fun e => !f e.2
    buckets := (x.buckets.map fun b => (b.1, b.2.filter fun e => !f e)).filter fun b => !b.2.isEmpty
    chIn := x.chIn.filter fun e => !f e
    parked := x.parked.filter fun p => !f p.entry
    ch := x.ch.map fun c => c.revoke f x.cyc.toNat }

/-- Free the list buffer of a batch task (R61). -/
def State.freeBuffer (s : State) : Option (Nat × Nat × Bool) → State
  | none => s
  | some (d, c, hi) => s.modDie d fun x =>
      { x with ch := vset x.ch c (let k := vget x.ch c; if hi then { k with busy1 := false } else { k with busy0 := false }) }

/-- Revoke the entries of a die that `f` selects, releasing their BQUEUE charges; the answer counts them, and says whether every
RCB took its charge (R57, R423). -/
def revokeOn (g : Agent) (d : Nat) (f : Entry → Bool) : M (Nat × Bool) := do
  modify fun s => s.modDie d Die.settle
  let l := ((← get).die d).revocable f
  modify fun s => s.modDie d fun x => x.revoke f
  let ok ← allOk (fun (e : Entry) => do
    modify fun s => s.freeBuffer e.buffer
    charge g .queue e.blk.region.toNat (-1)) l
  return (l.length, ok)

/-- The tile that waits for an operation. -/
def DieOp.tile : DieOp → Option Nat
  | .cancel _ _ t _ _ _ => t
  | .repri _ _ _ _ t => some t

/-- Mark the task of a tile as cancelled (R29): a boundary word whose performance has not begun is withdrawn. -/
def State.cancelTask (s : State) (t : Nat) : State :=
  let x := s.tileAt t
  let begun := match x.bnd with | some b => b.begun | none => true
  let s := s.setTile t { x with task := x.task.map fun k => { k with cancelled := true }, wake := true
                                bnd := if begun then x.bnd else none }
  if begun then s else { s with dies := s.dies.map fun d => { d with ops := d.ops.filter fun o => o.tile != some t } }

/-- Mark the running tasks of a context that `f` selects as cancelled, on the tiles of a die (R29, R57). -/
def State.markCancelled (s : State) (d : Nat) (ctx : BitVec 16) (f : Nat → Bool) : State :=
  s.tiles.foldl (fun s t =>
    if dieOf t == d then
      match (s.tileAt t).task with
      | some k => if k.ctx == ctx && f k.blk.region.toNat then s.cancelTask t else s
      | none => s
    else s) s

/-- Set regions to CANCELLING; false where an RCB refused it (R38, R423). -/
def setCancelling (g : Agent) (l : List Nat) : M Bool :=
  allOk (fun k => do
    match ← rcbWord g k 0 with
    | .ok w => rcbPut g k 0 (setFld w 63 56 2)
    | .error _ => return false) l

/-- Set a region and its ACTIVE descendants to CANCELLING; the answer lists them, and says whether every RCB took it (R57).  A region
that is not ACTIVE changes nothing. -/
def cancelStates (g : Agent) (r : Nat) : M (List Nat × Bool) := do
  if (← rcbState g r) != some 1 then return ([], true)
  let l ← regionsIn g 1
  let sel ← l.filterM fun k => under g r k
  let sel := if sel.contains r then sel else r :: sel
  let ok ← setCancelling g sel
  return (sel, ok)

/-- CANCEL on one die: revoke the queued and parked entries of the context's CANCELLING regions among `l`, mark the
running tasks; the answer counts the entries, and says whether every RCB took its charge (R57). -/
def cancelDie (g : Agent) (d : Nat) (l : List Nat) : M (Nat × Bool) := do
  let n ← revokeOn g d fun e => e.of g.who.ctx fun r => l.contains r
  modify fun s => s.markCancelled d g.who.ctx fun r => l.contains r
  return n

/-! ### Queues (R40, R41) -/

/-- Address of word `k` of the descriptor of queue `q` (R40). -/
def qdAddr (qbase : Word) (q k : Nat) : Nat := qbase.toNat + q * 64 + k * 8

/-- A queue descriptor that passes: ring address, QSTATE, slots, WRIDX, RDIDX, DONEIDX. -/
structure QDesc where
  base : Word
  state : Nat
  size : Nat
  wr : Nat
  rd : Nat
  done : Nat
deriving DecidableEq, Repr

/-- The descriptor in eight words; none where it is not read (R40). -/
def descOf (w : List Word) : Option QDesc :=
  let x := fun k => w.getD k 0
  let lg := fld (x 1) 4 0
  if fld (x 1) 63 16 != 0 || fld (x 1) 7 5 != 0 || x 7 != 0 || lg < 4 || 16 < lg || fld (x 0) 5 0 != 0 then none
  else some ⟨x 0, fld (x 1) 15 8, 2 ^ lg, (x 2).toNat, (x 3).toNat, (x 4).toNat⟩

/-- The queues of a context whose QSTATE is one that `f` selects, ascending. -/
def queuesWith (g : Agent) (qbase : Word) (f : Byte → Bool) : M (List Nat) := fun s =>
  let b := qbase.toNat
  let l := (s.findBytes g b (b + 0x400000) fun va x => (va - b) % 64 == 9 && f x).map fun va => (va - b) / 64
  let (m, s) := farHits g b 64 0x10000 9 f s
  (m.foldl (fun a q => insertNat q a) l, s)

/-- The queues of a context that are live or torn down, ascending. -/
def queuesIn (g : Agent) (qbase : Word) : M (List Nat) := queuesWith g qbase fun x => x == 1 || x == 2

/-- Tear down a queue: QSTATE := 2, by its byte where its word cannot be read, and the ACTIVE regions rooted at it pass to CANCELLING with what R57 does to them (R41). -/
def teardown (g : Agent) (qbase : Word) (q : Nat) : M Unit := do
  match ← ask fun s => s.agentRead g (qdAddr qbase q 1) with
  | .error _ => modify fun s =>
    match s.agentPa g (qdAddr qbase q 1) true with
    | (s, .ok pa) => s.homeWrite (pa + 1) [2]
    | (s, .error _) => s
  | .ok w => let _ ← ask fun s => s.agentWrite g (qdAddr qbase q 1) (setFld w 15 8 2)
  let l ← regionsIn g 1
  let sel ← l.filterM fun r => do return (← rootQueue g r) == some q
  let _ ← setCancelling g sel
  (List.range 4).forM fun d => do let _ ← cancelDie g d sel
  sel.forM fun k => do let _ ← tryClose g k

/-- An error that cannot be pinned to a task: the queue of the region is torn down and ERRREC records UNPINNED (R252). -/
def unpinned (g : Agent) (r : Nat) (addr : Word) : M Unit := do
  modify fun s => s.errRec g.die 0x52 0 addr
  match ← rootQueue g r with
  | some q => teardown g g.who.qbase q
  | none => pure ()

/-- An access to an RCB whose failure is an error that cannot be pinned (R423). -/
def orUnpinned (g : Agent) (r : Nat) (x : M Bool) : M Unit := do
  if !(← x) then unpinned g r (BitVec.ofNat 64 (rcbAddr g r 0))

/-- A charge (R36). -/
def bill (g : Agent) (b : Budget) (r : Nat) (d : Int) : M Unit := orUnpinned g r (charge g b r d)

/-- A change of NRUN. -/
def billRun (g : Agent) (r : Nat) (d : Int) : M Unit := orUnpinned g r (addNrun g r d)

/-- The close of a region whose tasks have ended (R38). -/
def closeIfIdle (g : Agent) (r : Nat) : M Unit := orUnpinned g r (tryClose g r)

/-- Set a bit of STATUS, the word at 0x48, while STATE is not FREE: 0 JERR, 1 SUCCDROP, 2 FAULTED, 3 BUDGETHIT (R35). -/
def setStatus (g : Agent) (r bit : Nat) : M Unit := orUnpinned g r do
  match ← rcbState g r, ← rcbWord g r 9 with
  | some st, .ok w => if st == 0 then return true else rcbPut g r 9 (w ||| BitVec.ofNat 64 (2 ^ bit))
  | _, _ => return false

/-! ### Inherited fields (R36) -/

/-- An effective field of a region; none where its RCB cannot be read. -/
def fieldOf (g : Agent) (r b k hi lo : Nat) : M (Option Nat) := do
  match ← chain g r with
  | none => return none
  | some l => return some (effField b k hi lo l)

/-- An effective field of a region; an RCB that cannot be read is an error that cannot be pinned (R423), and the field is then 0. -/
def regionField (g : Agent) (r b k hi lo : Nat) : M Nat := do
  match ← fieldOf g r b k hi lo with
  | some v => return v
  | none => do
    unpinned g r (BitVec.ofNat 64 (rcbAddr g r 0))
    return 0

/-- Effective PRIOBASE, AGERATE, FMODE, DLCLASS, PREEMPT (R35, R36). -/
def priobase (g : Agent) (r : Nat) : M Nat := regionField g r 0 1 31 0
def agerate (g : Agent) (r : Nat) : M Nat := regionField g r 1 1 47 32
def fmode (g : Agent) (r : Nat) : M Nat := regionField g r 2 0 52 52
def dlclass (g : Agent) (r : Nat) : M Nat := regionField g r 4 0 51 48
def preemptLimit (g : Agent) (r : Nat) : M Nat := regionField g r 5 2 31 0

/-- Effective REMTAB; none where the RCB cannot be read (R210). -/
def remtab (g : Agent) (r : Nat) : M (Option Nat) := fieldOf g r 11 10 63 0


end Sys2Proof.Machine
end

