-- ==== Sys2Proof/Machine/Operands.lean ====
section
/-! DEFINITION. Operand forms: elements of a vector register (R66), the shape register (R65), and the addresses of a task
or an engine (R101 to R104, R125 to R132, R139, R230). -/

namespace Sys2Proof.Machine
open Sys2Proof

/-! ### Types and shapes (R65, R66) -/

/-- The type of a TYPE code. -/
def tyOf : Nat → Option ETy
  | 0 => some .f32 | 1 => some .bf16 | 2 => some .e4m3 | 3 => some .e5m2 | 4 => some .e2m1 | 5 => some .l6
  | 6 => some .i8 | 7 => some .i32 | _ => none

/-- The TYPE code of a type. -/
def tyCode : ETy → Nat
  | .f32 => 0 | .bf16 => 1 | .e4m3 => 2 | .e5m2 => 3 | .e2m1 => 4 | .l6 => 5 | .i8 => 6 | .i32 => 7

/-- A captured shape: type, rows, columns. -/
structure Shape where
  ty : ETy
  rows : Nat
  cols : Nat
deriving DecidableEq, Repr

/-- The shape of a VSHAPE value (R65); FP32 where the TYPE bits hold no type, which no value of VSHAPE does. -/
def shapeOf (w : Word) : Shape := ⟨(tyOf (fld w 19 16)).getD .f32, fld w 5 0 + 1, fld w 14 6 + 1⟩

/-- Elements of the tile. -/
def Shape.n (x : Shape) : Nat := x.rows * x.cols

/-- Bytes of a tile of `n` elements of a type (R66). -/
def bytesOf (t : ETy) (n : Nat) : Nat := ceilDiv (n * t.place) 8

/-- S, the bytes of the tile, and G, its groups of 512 bytes (R66). -/
def Shape.bytes (x : Shape) : Nat := bytesOf x.ty x.n
def Shape.groups (x : Shape) : Nat := ceilDiv x.bytes 512

/-- Whether a VSHAPE value is refused (R65). -/
def shapeRefused (w : Word) : Bool :=
  fld w 63 20 != 0 || bitAt w 15 || fld w 19 16 ≥ 8 || decide (2048 < (shapeOf w).bytes)

/-- Element `k` of a register at its place under a type (R66). -/
def elemAt (x : BitVec 16384) (t : ETy) (k : Nat) : Nat := x.toNat / 2 ^ (k * t.place) % 2 ^ t.width

/-- The bits of element `k`. -/
def elemMask (t : ETy) (k : Nat) : Nat := (2 ^ t.place - 1) * 2 ^ (k * t.place)

/-- Codes placed at element numbers: (value bits, enable bits) of a register (R66). -/
def placeElems (t : ETy) (l : List (Nat × Nat)) : BitVec 16384 × BitVec 16384 :=
  let r := l.foldl (fun (a : Nat × Nat) e => (a.1 + e.2 % 2 ^ t.width * 2 ^ (e.1 * t.place), a.2 + elemMask t e.1)) (0, 0)
  (BitVec.ofNat 16384 r.1, BitVec.ofNat 16384 r.2)

/-- Elements of group `g` of a register: those whose bytes start in it (R66). -/
def groupElems (x : Shape) (g : Nat) : List Nat :=
  let per := 4096 / x.ty.place
  (List.range (min per (x.n - g * per))).map fun i => g * per + i

/-- A register with the enabled bits replaced. -/
def mergeVec (old x en : BitVec 16384) : BitVec 16384 := (old &&& ~~~en) ||| (x &&& en)

/-- `n` bytes of a register from byte `b`. -/
def vecBytes (x : BitVec 16384) (b n : Nat) : Nat := x.toNat / 2 ^ (8 * b) % 2 ^ (8 * n)

/-- Value and enable bits of `n` bytes at byte `b`. -/
def placeBytes (b n x : Nat) : BitVec 16384 × BitVec 16384 :=
  (BitVec.ofNat 16384 (x % 2 ^ (8 * n) * 2 ^ (8 * b)), BitVec.ofNat 16384 ((2 ^ (8 * n) - 1) * 2 ^ (8 * b)))

/-! ### Registers -/

/-- s[r]; s0 reads as zero (R64). -/
def Regs.sreg (x : Regs) (r : Nat) : Word := if r % 64 == 0 then 0 else vget x.s (r % 64)
/-- Write s[r]; a write of s0 is discarded (R64). -/
def Regs.setS (x : Regs) (r : Nat) (v : Word) : Regs := if r == 0 then x else { x with s := vset x.s r v }
/-- p[n]; p0 reads as true (R64). -/
def Regs.pred (x : Regs) (n : Nat) : Bool := if n % 8 == 0 then true else vget x.p (n % 8)
/-- Write p[n]; a write of p0 is discarded (R64). -/
def Regs.setP (x : Regs) (n : Nat) (v : Bool) : Regs := if n == 0 then x else { x with p := vset x.p n v }
/-- m[n]; m0 reads as all ones (R64). -/
def Regs.mask (x : Regs) (n : Nat) : BitVec 512 := if n % 8 == 0 then BitVec.allOnes 512 else vget x.m (n % 8)
/-- Write m[n]; a write of m0 is discarded (R64). -/
def Regs.setM (x : Regs) (n : Nat) (v : BitVec 512) : Regs := if n == 0 then x else { x with m := vset x.m n v }

/-- Write a destination and OR its flags into FPCTL (R74, R147). -/
def Regs.land (x : Regs) (d : Dest) (f : FFlags) : Regs :=
  let y := match d with
    | .sreg r v => x.setS r.toNat v
    | .pred n v => x.setP n.toNat v
    | .vec r v en => { x with v := vset x.v r.toNat (mergeVec (vget x.v r.toNat) v en) }
    | .mask n v en => x.setM n.toNat ((x.mask n.toNat &&& ~~~en) ||| (v &&& en))
    | .latch n v => { x with ps := vset x.ps n.toNat v }
    | .none => x
  { y with fpctl := orFlags y.fpctl f }

/-! ### Votes (R74, R248) -/

/-- The value on which at least two of three agree. -/
def majority {α : Type} [DecidableEq α] (a b c : α) : Option α :=
  if a = b then some a else if b = c then some b else if a = c then some a else none

/-- Vote element by element over `n` elements of `w` bits, of those that have an enabled bit. -/
def voteBits (w : Nat) (a b c en : Nat) : Nat → Option Nat
  | 0 => some 0
  | n + 1 =>
    let e := fun (x : Nat) => x / 2 ^ (w * n) % 2 ^ w
    match voteBits w a b c en n with
    | none => none
    | some r =>
      if e en == 0 then some r
      else
        match majority (e a) (e b) (e c) with
        | some x => some (r + x * 2 ^ (w * n))
        | none => none

/-- A destination with the bits that do not land cleared: masked-off elements are not compared (R248). -/
def Dest.compared : Dest → Dest
  | .vec r x en => .vec r (x &&& en) en
  | .mask n x en => .mask n (x &&& en) en
  | d => d

/-- The destination that a vote writes; none where no two copies agree on some element. -/
def voteDest (w : Nat) (a b c : Dest) : Option Dest :=
  match a.compared, b.compared, c.compared with
  | .vec r x en, .vec _ y _, .vec _ z _ =>
    if x == y && y == z then some a
    else (voteBits w x.toNat y.toNat z.toNat en.toNat (16384 / w)).map fun v => .vec r (BitVec.ofNat 16384 v) en
  | .mask n x en, .mask _ y _, .mask _ z _ =>
    if x == y && y == z then some a
    else (voteBits 1 x.toNat y.toNat z.toNat en.toNat 512).map fun v => .mask n (BitVec.ofNat 512 v) en
  | a, b, c => majority a b c

/-- What three copies of a result agree on: none where no two agree on some element or on the flags (R248). (DESIGN CHOICE, log 94) -/
def Vote.take (v : Vote) : Option Landing :=
  match voteDest v.width v.a.dest v.b.dest v.c.dest, majority v.a.flags v.b.flags v.c.flags with
  | some d, some f => some { v.a with dest := d, flags := f }
  | _, _ => none

/-- Whether all three copies agree. -/
def Vote.agree (v : Vote) : Bool :=
  let same := fun (x y : Landing) => x.dest.compared == y.dest.compared && x.flags == y.flags
  same v.a v.b && same v.b v.c

/-- The result of a vote as it will land. -/
def Vote.result (v : Vote) : Landing := v.take.getD v.a

/-- Results of a tile that land up to cycle `c`, those of votes among them, in the order in which they land
(R74). -/
def Tile.landed (t : Tile) (c : Nat) : List Landing :=
  sortBy (fun a b : Landing => a.cyc < b.cyc || a.cyc == b.cyc && a.seq < b.seq)
    ((t.inflight ++ t.votes.map Vote.result).filter fun l => l.cyc ≤ c)

/-- A vector register as it reads in cycle `c` (R74). -/
def Tile.vecAt (t : Tile) (r : Nat) (c : Nat) : BitVec 16384 :=
  (t.landed c).foldl (fun x l => match l.dest with | .vec d v en => if d.toNat = r then mergeVec x v en else x | _ => x)
    (vget t.regs.v r)

/-- A mask as it reads in cycle `c`. -/
def Tile.maskAt (t : Tile) (n : Nat) (c : Nat) : BitVec 512 :=
  if n % 8 == 0 then BitVec.allOnes 512
  else (t.landed c).foldl (fun x l => match l.dest with | .mask d v en => if d.toNat = n then (x &&& ~~~en) ||| (v &&& en) else x | _ => x) (vget t.regs.m n)

/-! ### For whom a tile acts -/

/-- The task of a tile (R20, R78). -/
def Tile.ident (t : Tile) (n : Nat) : Ident :=
  ⟨t.ctxid, t.ptroot, t.rgnbase, t.qbase, (t.task.map (·.blk.region)).getD 0, t.priv, n⟩

/-- The agent of a tile's own task: what the task causes uses its registers (R20). -/
def State.tileAgent (s : State) (t : Nat) : Agent :=
  let x := s.tileAt t
  ⟨dieOf t, x.ident t, match s.place t with | some (p, _) => p | none => s.ctxPart x.ctxid, []⟩

/-- The agent of an identity. -/
def State.identAgent (s : State) (w : Ident) : Agent :=
  ⟨min 3 (dieOf w.tile), w, match s.place w.tile with | some (p, _) => p | none => s.ctxPart w.ctx, []⟩

/-! ### Translation for a task or engine (R128, R130, R132) -/

/-- What an access does. -/
inductive Use | rd | wr | atomic
deriving DecidableEq, Repr

/-- How an access fails: a trap at issue, a fault met after issue, parking on a page, or a RETRY of a home (R139). -/
inductive Bad
  | precise (cause : Byte) (tval : Word)
  | deferred (cause : Byte) (tval : Word)
  | park (page : BitVec 36)
  | retry
deriving DecidableEq, Repr

/-- The held translation of an address (R132). -/
def findTlb (l : List TlbEntry) (ctx : BitVec 16) (va : Nat) : Option TlbEntry :=
  l.find? fun e => e.ctx == ctx && (if e.big then e.vpn.toNat / 32 == va / 0x200000 else e.vpn.toNat == va / 0x10000)

/-- Hold a translation in a TLB of 512 places (R132). (DESIGN CHOICE, log 44) -/
def holdTlb (l : List TlbEntry) (e : TlbEntry) : List TlbEntry :=
  if l.contains e then l else e :: (l.filter fun x => !(x.ctx == e.ctx && x.vpn == e.vpn)).take 511

/-- A frame is zeroed: its words are good again (R128, R245). -/
def State.zeroFrame (s : State) (f : Nat) : State :=
  let out := fun (a : Nat) => !(f ≤ a && a < f + 0x10000)
  { s with mem := s.mem.filter fun c => out c.1, bad := s.bad.filter out, coded := s.coded.filter out }

/-- AllocKV (R128): the leaf is installed, or how it fails. -/
def allocKv (g : Agent) (ga : Word) (at_ : Nat) (w0 w1 : Word) : M (Option Bad) := do
  let va := fld ga 51 0
  match ← fitsBudget g .kv g.who.region.toNat 1 with
  | some r => do
    setStatus g g.who.region.toNat 3
    return some (.deferred causeBudget (BitVec.ofNat 64 r))
  | none =>
    match ← popKv g.die with
    | none => do
      modify fun s => s.modDie g.die fun x => { x with kvempty := true }
      return some (.park (BitVec.ofNat 36 (va / 0x10000)))
    | some f => do
      let n0 := (setFld (setFld w0 43 16 (f / 0x10000)) 3 0 2) ||| 0x300
      let n1 := w1 ||| BitVec.ofNat 64 (2 ^ 53)
      modify fun s => s.zeroFrame f
      let b := toBytes 8 n0.toNat ++ toBytes 8 n1.toNat
      modify fun s => (s.homeWrite at_ b).homeWrite (at_ + 0x1000) b
      let s ← get
      let rec_ := s.frameRec f
      modify fun s => s.homeWrite rec_
        (toBytes 8 (2 ^ 32 + fld n0 63 56 * 2 ^ 20) ++ toBytes 8 (g.who.ctx.toNat * 2 ^ 48 + va / 0x10000)
          ++ toBytes 8 g.who.region.toNat)
      bill g .kv g.who.region.toNat 1
      return none

/-- The leaf of a paged address by a walk for a task or engine, with PARK and ALLOC, after which the walk is made again (R125, R128); a
good leaf joins the tile's TLB. -/
def walkLeaf (g : Agent) (ga : Word) : Nat → M (Except Bad Leaf)
  | 0 => return .error (.deferred causePageAbsent ga)
  | k + 1 => do
    let va := fld ga 51 0
    let n := (← get).partCount g.part
    match ← ask fun s => s.walk g.die n g.who.root va with
    | .fault c => return .error (.deferred c ga)
    | .absent w0 w1 _ a =>
      if bitAt w0 2 then return .error (.park (BitVec.ofNat 36 (va / 0x10000)))
      else if bitAt w0 3 then
        match ← allocKv g ga a w0 w1 with
        | some b => return .error b
        | none => walkLeaf g ga k
      else return .error (.deferred causePageAbsent ga)
    | .leaf w0 w1 lvl blocks => do
      let e : TlbEntry := ⟨g.who.ctx, BitVec.ofNat 36 (va / 0x10000), lvl == 1, w0, w1, blocks⟩
      if g.who.tile < 512 then modify fun s => s.modTile g.who.tile fun t => { t with tlb := holdTlb t.tlb e }
      return .ok ⟨w0, w1, lvl == 1⟩

/-- The leaf of a paged address: the one that a transfer keeps, else the held one, or the one in memory, either where they differ (R132,
R133). -/
def leafOf (g : Agent) (ga : Word) : M (Except Bad Leaf) := do
  let s ← get
  match findTlb g.keep g.who.ctx (fld ga 51 0), findTlb (s.tileAt g.who.tile).tlb g.who.ctx (fld ga 51 0) with
  | some e, _ => return .ok ⟨e.w0, e.w1, e.big⟩
  | none, none => walkLeaf g ga 2
  | none, some e =>
    let held : Leaf := ⟨e.w0, e.w1, e.big⟩
    match (s.walk g.die (s.partCount g.part) g.who.root (fld ga 51 0)).2 with
    | .leaf w0 w1 lvl _ =>
      if w0 == e.w0 && w1 == e.w1 && (lvl == 1) == e.big then return .ok held
      else do
        set s.tick
        if Config.useHeld s.free then return .ok held else walkLeaf g ga 2
    | _ => do
      set s.tick
      if Config.useHeld s.free then return .ok held else walkLeaf g ga 2

/-- Steps 2 to 4 of the checks of R130. -/
def leafRefuses (s : State) (who : Ident) (l : Leaf) (use : Use) : Bool :=
  let wr := use != .rd
  let rd := use != .wr
  bitAt l.w0 10 && !who.priv || rd && !bitAt l.w0 8 || wr && !bitAt l.w0 9 || wr && bitAt l.w1 54
    || bitAt l.w0 11 && (s.place who.tile).map (·.2) != some (fld l.w1 52 44)

/-- Whether a page is private to the tile (R91, R126). -/
def Leaf.isPrivate (l : Leaf) : Bool := bitAt l.w0 11

/-! ### Places -/

/-- Where an access goes: the map of this device (with the leaf of a paged address), a node, a control window, or
another device by a global address or by a leaf's RDEV (R268, R269). -/
inductive Place
  | mem (pa : Nat) (leaf : Option Leaf)
  | node (n : Nat)
  | window (off : Nat)
  | remote (pdev : BitVec 12) (rctx : BitVec 16) (slot : BitVec 10) (la : Nat)
  | phys (pdev : BitVec 12) (rctx : BitVec 16) (slot : BitVec 10) (pa : Nat) (gen : Byte) (leaf : Leaf)
deriving DecidableEq, Repr

/-- The page format at a place: raw where no page gives one (R131). -/
def Place.fmt : Place → Nat
  | .mem _ (some l) => l.fmt
  | .phys _ _ _ _ _ l => l.fmt
  | _ => 0

/-- The physical address of a place in the map. -/
def Place.pa : Place → Option Nat
  | .mem pa _ => some pa
  | _ => none

/-- A flat access of `n` bytes (R102, R230). -/
def State.flatPlace (s : State) (g : Agent) (core : Bool) (sl off n : Nat) (ga : Word) : Except Bad Place :=
  match s.virt g.part sl with
  | none => .error (.precise causePagePerm ga)
  | some t =>
    if sliceBytes < off + n then .error (.precise causePagePerm ga)
    else if frameOff < off + n && t != g.who.tile && !(core && g.who.priv) then .error (.precise causePagePerm ga)
    else .ok (.mem (sliceBase t + off) none)

/-- What an access path asks of a page that it uses: its leaf, the physical address and the length (R131). -/
abbrev PathOk := Leaf → Nat → Nat → Bool
/-- A path that takes any page, as raw bytes. -/
def anyFmt : PathOk := fun _ _ _ => true
/-- The path of atomics and futures: raw or FP32. -/
def wordFmt : PathOk := fun l _ _ => l.fmt < 2

/-- A paged access of `n` bytes within one page (R130): the walk, the rights, the format, then the home's answer to a read (R139). -/
def pagedPlace (g : Agent) (ga : Word) (n : Nat) (use : Use) (ok : PathOk) : M (Except Bad Place) := do
  match ← leafOf g ga with
  | .error b => return .error b
  | .ok l =>
    let s ← get
    let pa := l.pa (fld ga 51 0)
    if leafRefuses s g.who l use then return .error (.deferred causePagePerm ga)
    else if !ok l pa n then return .error (.deferred causePageFormat ga)
    else
      match s.device g.who.ctx l.rdev with
      | none => return .error (.deferred causeRouteBad ga)
      | some (.there p c k) => return .ok (.phys p c k pa l.gen l)
      | some .here =>
        if use != .rd then return .ok (.mem pa (some l))
        else
          match s.homeAnswer pa l.gen false with
          | .stale => return .error (.deferred causePageAbsent ga)
          | .again => return .error .retry
          | .apply => return .ok (.mem pa (some l))
          | .redirect q gen nd =>
            if s.undrained (pa / 0x10000 * 0x10000) 0x10000 then return .error .retry
            else if nd == 0xFFF then
              return if fld (s.home64 (s.frameRec q)) 31 28 == 3 then .ok (.mem q (some l)) else .error .retry
            else
              match s.device g.who.ctx nd.toNat with
              | some (.there d c k) => return .ok (.phys d c k q gen l)
              | _ => return .error (.deferred causeRouteBad ga)

/-- Record in the chunk of a tile's issuing word the translation that it used (R133). -/
def Tile.noteXlate (t : Tile) (va : Nat) : Tile :=
  match findTlb t.tlb t.ctxid va with
  | none => t
  | some e =>
    let f := fun (c : Chunk) => if c.xlate.contains e then c else { c with xlate := e :: c.xlate }
    match t.cur with
    | some c => if c.first ≤ t.iw.seq then { t with cur := some (f c) } else { t with older := t.older.map f }
    | none => { t with older := t.older.map f }

/-- The place of an access of `n` bytes that lie in one page, by a task word (`core`) or an engine (R101 to R104): what lies in NSM or no
space, and a control window of an engine, is refused before its device is looked at (R303, R329). -/
def place (g : Agent) (core : Bool) (ga : Word) (n : Nat) (use : Use) (ok : PathOk) : M (Except Bad Place) := do
  let s ← get
  let la := fld ga 51 0
  let sp := spaceOf la
  let none_ := match sp with | .nsm _ | .none => true | .window _ => !core | _ => false
  if none_ then return .error (.precise causePagePerm ga)
  else
    match s.device g.who.ctx (fld ga 63 52), sp with
    | none, _ => return .error (.precise causeRouteBad ga)
    | some (.there p c k), _ => return .ok (.remote p c k la)
    | some .here, .flat sl off => return s.flatPlace g core sl off n ga
    | some .here, .paged => do
      let r ← pagedPlace g ga n use ok
      if core then modify fun s => s.modTile g.who.tile fun t => t.noteXlate la
      return r
    | some .here, .window off => return .ok (.window off)
    | some .here, _ => return .error (.precise causePagePerm ga)

/-- A piece of an access: its offset in the access, its length and its place. -/
structure Seg where
  off : Nat
  len : Nat
  at_ : Place
deriving DecidableEq, Repr

/-- The pieces of an access of `n` bytes, cut at 64 KiB boundaries, the lower first (R130). -/
def placesFrom (g : Agent) (core : Bool) (ga : Word) (n : Nat) (use : Use) (ok : PathOk) : Nat → Nat → M (Except Bad (List Seg))
  | 0, _ => return .ok []
  | k + 1, off => do
    if n ≤ off then return .ok []
    else
      let a := ga + BitVec.ofNat 64 off
      let len := min (n - off) (0x10000 - fld a 15 0)
      match ← place g core a len use ok with
      | .error b => return .error b
      | .ok p =>
        match ← placesFrom g core ga n use ok k (off + len) with
        | .error b => return .error b
        | .ok l => return .ok (⟨off, len, p⟩ :: l)

/-- The pieces of an access of `n` bytes. -/
def places (g : Agent) (core : Bool) (ga : Word) (n : Nat) (use : Use) (ok : PathOk) : M (Except Bad (List Seg)) :=
  placesFrom g core ga n use ok (n / 0x10000 + 2) 0

/-! ### What a tile reads -/

/-- The stores a tile's own later loads see beyond the homes: those of its open chunks, oldest first (R93, R105). -/
def Tile.buffered (t : Tile) : List Store :=
  (t.older.map (·.stores)).getD [] ++ (t.cur.map (·.stores)).getD []

/-- A core read of `n` bytes of the map. -/
def State.coreRead (s : State) (pa n : Nat) : Nat := readOver s.mem (s.wb ++ s.tile.buffered) pa n

end Sys2Proof.Machine
end

