-- ==== Sys2Proof/Machine/Ops.lean ====
section
/-! DEFINITION. The operations the words share: issue with guard, occupancy and landing (R68 to R75), chunks and squash
(R80 to R100), taking a trap (R228 to R232) and returning from one (R233). -/

namespace Sys2Proof.Machine
open Sys2Proof

/-! ### What a word does at issue -/

/-- The outcome of a word's own effect: done, a precise trap, a fault of a variable-latency access (R226), parking
(R128), ending the chunk before itself with nothing more (R80, R94, R110) or with what follows, a squash for a first
consumed error (R250), a RETRY of a home, on which the word has not issued (R139), or a wait of its agent for another
device, on which it has not issued either (DESIGN CHOICE, log 14). -/
inductive Act
  | done (s : State)
  | trap (cause : Byte) (tval : Word)
  | deferred (cause : Byte) (tval : Word) (s : State)
  | park (page : BitVec 36) (s : State)
  | before
  | ended (w : EndWith)
  | squash (s : State)
  | retry
  | again (s : State)

/-- The state that an outcome hands on. -/
def Act.state? : Act → Option State
  | .done s | .deferred _ _ s | .park _ s | .squash s | .again s => some s
  | .trap .. | .before | .ended _ | .retry => none

/-- An effect that reads structures of a context: where one lies on another device and has not been read yet, the word waits
for it (R55, DESIGN CHOICE, log 14). -/
def actAttempt (f : State → Act) (s : State) : Act :=
  let a := f { s with needs := [], stalled := false }
  match a.state? with
  | some s1 =>
    if s1.needs.isEmpty && !s1.stalled then
      let fin := fun (x : State) => { x with needs := s.needs, pulled := x.pulled.filter fun y => !y.used }
      match a with
      | .done x => .done (fin x)
      | .deferred c v x => .deferred c v (fin x)
      | .park p x => .park p (fin x)
      | .squash x => .squash (fin x)
      | o => o
    else .again { s with needs := s.needs ++ s1.needs }
  | none => a

/-- ILLEGAL and PRIVILEGE of the word that issues: TVAL is the word (R224). -/
def illegal (s : State) : Act := .trap causeIllegal s.tile.iw.raw
def privilege (s : State) : Act := .trap causePrivilege s.tile.iw.raw

/-- The guard of a word (R68). -/
def guardOf (h : Hdr) (x : Regs) : Bool := x.pred h.pr.toNat != h.pn

/-- The tile as a start state (R84), votes taken (R248). -/
def Tile.snapshot (t : Tile) (c : Nat) : StartState := ⟨t.regs, t.inflight ++ t.votes.map Vote.result, t.occ, t.ends, c⟩

/-- Apply a function to the chunk that holds word number `seq`. -/
def Tile.modChunk (t : Tile) (seq : Nat) (f : Chunk → Chunk) : Tile :=
  match t.cur with
  | some c => if c.first ≤ seq then { t with cur := some (f c) } else { t with older := t.older.map f }
  | none => { t with older := t.older.map f }

/-- The chunk that holds word number `seq`. -/
def Tile.chunkOf (t : Tile) (seq : Nat) : Option Chunk :=
  match t.cur with
  | some c => if c.first ≤ seq then some c else t.older
  | none => t.older

/-- Every delivered word of the chunk has issued, and no more will be delivered. -/
def Chunk.complete (c : Chunk) : Bool := c.ended && c.issued == c.count

/-- The counts of the chunk of a word of weight `k` that issues on engine `e` in cycle `c` (R80, R93, R99). -/
def Tile.countIssue (t : Tile) (c : Nat) (e : Eng) (k : Nat) : Tile :=
  t.modChunk t.iw.seq fun x => { x with issued := x.issued + k, lastS := if e == .S then c else x.lastS, lastAt := c }

/-- The running snapshot of an issue in cycle `c` (R84). -/
def Tile.stampIssue (t : Tile) (c : Nat) : Tile := { t with lastIssue := c, snap := t.snapshot c }

/-- The snapshot is the start state of the chunk that follows once the chunk before it is complete (R83, R84). -/
def Tile.startNext (t : Tile) : Tile :=
  match t.older, t.cur with
  | some o, some x => if o.complete && x.start.isNone then { t with cur := some { x with start := some t.snap } } else t
  | _, _ => t

/-- Fetch goes on after a word that was delivered alone (R226). -/
def Tile.loneGo (t : Tile) (c : Nat) : Tile :=
  match t.chunkOf t.iw.seq with
  | some x => if x.lone && x.first == t.iw.seq && !x.exits then { t with fstop := false, fresume := c + 1 } else t
  | none => t

/-- A word of weight `k` on engine `e` has issued in cycle `c`: counts, the running snapshot, and the start state of
the chunk that follows once the chunk is complete (R83, R84). -/
def Tile.wordIssued (t : Tile) (c : Nat) (e : Eng) (k : Nat) : Tile :=
  (((t.countIssue c e k).stampIssue c).startNext).loneGo c

/-! ### Chunks: the end before a word -/

/-- Weight of a word: a COPYM counts two (R80, R172). -/
def weightOf : Instr → Nat
  | .copym .. => 2
  | _ => 1

/-- Weight of the word that issues: opcode 0x71 is COPYM (R172). -/
def Tile.iwWeight (t : Tile) : Nat := if t.iw.raw.extractLsb' 45 8 == 0x71 then 2 else 1

/-- Whether a word later than the one that issues has issued. -/
def Tile.laterIssued (t : Tile) : Bool :=
  decide (((t.queue.filter fun q => t.iw.seq < q.slot.seq).map fun q => weightOf q.word).sum + t.iw.seq + t.iwWeight < t.nseq)

/-- End the chunk before the word that is issuing, with what follows its commit (R80, R100, R110).  Where no later word
has issued, delivery is taken back to the word; else the chunk is squashed and re-executed up to it, as R226 says of a deferred fault
(DESIGN CHOICE, log 104). -/
def Tile.endBefore (t : Tile) (now : Nat) (w : Option EndWith) : Tile :=
  let seq := t.iw.seq
  match t.chunkOf seq with
  | none =>
    let t := { t with fetch := t.iw.before, queue := t.queue.filter fun q => decide (q.slot.seq < seq), fstop := w.isSome }
    match w with
    | some (.trap r) => { t with trap := some r }
    | some (.park p) => { t with saving := some (.park p false) }
    | none => t
  | some c =>
    let kept := t.queue.filter fun q => decide (q.slot.seq < seq)
    let n := seq - c.first
    if t.laterIssued then
      let isOlder := match t.cur with | some x => decide (seq < x.first) | none => true
      t.squash now isOlder false (some n)
    else
      let inOlder := match t.cur with | some x => decide (seq < x.first) | none => true
      let t := { t with
        queue := kept, fetch := t.iw.before, nseq := seq, fstop := w.isSome, fresume := now + 1
        older := if inOlder then none else t.older }
      if n == 0 then
        match w with
        | some (.trap r) => { t with cur := none, trap := some r }
        | some (.park p) => { t with cur := none, saving := some (.park p false) }
        | none => { t with cur := none }
      else
        { t with cur := some { c with count := n, ended := true, trap := w, exits := false, safept := none } }

/-- The first consumed uncorrectable error of a chunk squashes it without advancing CHKST (R250). -/
def Tile.consumeSquash (t : Tile) (now : Nat) : Tile :=
  let seq := t.iw.seq
  let inOlder := match t.cur with | some x => decide (seq < x.first) | none => true
  (t.modChunk seq fun c => { c with consumed := true }).squash now inOlder false none

/-- A precise trap on the word that is issuing (R100, R224, R225). -/
def State.preciseTrap (s : State) (cause : Byte) (tval : Word) : State :=
  s.onTile fun t => t.endBefore s.now (some (.trap ⟨cause, t.iw.idx, tval, t.iw.idx, false⟩))

/-- The deferred fault of the word that has issued: the earliest in program order is kept; a word delivered alone
takes its trap at once (R226). -/
def State.deferFault (s : State) (cause : Byte) (tval : Word) (park : Option (BitVec 36)) : State :=
  let t := s.tile
  let lone := match t.chunkOf t.iw.seq with | some c => c.lone && c.first == t.iw.seq | none => true
  if lone then
    match park with
    | some p => s.onTile fun t => t.endBefore s.now (some (.park p))
    | none => s.preciseTrap cause tval
  else
    s.onTile fun t =>
      let d : Deferred := ⟨t.iw.seq, t.iw.idx, cause, tval, park⟩
      { t with deferred := match t.deferred with | some x => if x.seq ≤ d.seq then some x else some d | none => some d }

/-- Engine `e` occupied from now on by a word of `occ` cycles, three times that with V = 1 (R71, R74). -/
def State.occupied (s : State) (e : Eng) (occ : Nat) (h : Hdr) : State :=
  let u := s.now + if h.v then 3 * occ else occ
  s.onTile fun t => { t with occ := t.occ.set e u, ends := t.ends.set e u }

/-- The tile as it will stand in cycle `now` + `k`, its cycles counted from there: results of fixed latency have landed (R74). -/
def Tile.ahead (t : Tile) (now k : Nat) : Tile :=
  let later := fun (l : Landing) => decide (now + k < l.cyc)
  { t with
    regs := (t.landed (now + k)).foldl (fun r l => r.land l.dest l.flags) t.regs
    inflight := (t.inflight.filter later).map fun l => { l with cyc := l.cyc - k }
    votes := (t.votes.filter fun v => later v.a).map fun v =>
      { v with a := { v.a with cyc := v.a.cyc - k }, b := { v.b with cyc := v.b.cyc - k }, c := { v.c with cyc := v.c.cyc - k } } }

/-- The results of an issue of a word with V = 1 that comes `k` cycles later, with its operands as they stand then (R74). -/
def State.copyAt (s : State) (body : State → Act) (k : Nat) : List Landing :=
  let s1 := s.onTile fun t => t.ahead s.now k
  match body s1 with
  | .done s2 => (s2.tile.votes.drop s1.tile.votes.length).map (·.a)
  | _ => []

/-- The results `l` of a word with V = 1 with those of its second and third issues (R74, R248). -/
def threeCopies (l : List Vote) (b c : List Landing) : List Vote :=
  (List.range l.length).filterMap fun i => l[i]?.map fun v =>
    { v with b := { (b.getD i v.b) with cyc := v.a.cyc }, c := { (c.getD i v.c) with cyc := v.a.cyc } }

/-- A word with V = 1 has issued three times, in consecutive occupancies (R74). -/
def State.thrice (s1 s2 : State) (body : State → Act) (occ : Nat) : State :=
  let n := s1.tile.votes.length
  s2.onTile fun t => { t with votes := t.votes.take n ++ threeCopies (t.votes.drop n) (s1.copyAt body occ) (s1.copyAt body (2 * occ)) }

/-- A word issues on engine `e` for `occ` cycles (three times that with V = 1; R74), and does `body` when its guard
holds (R68).  `k` is its weight towards the chunk limit. -/
def issueW (e : Eng) (occ k : Nat) (h : Hdr) (body : State → Act) (s : State) : Host.Outcome State Fault Refusal :=
  let s1 := s.occupied e occ h
  if guardOf h s.tile.regs then
    match body s1 with
    | .done s2 => .next ((if h.v then s1.thrice s2 body occ else s2).onTile fun t => t.wordIssued s.now e k)
    | .trap c v => .next (s.preciseTrap c v)
    | .deferred c v s2 =>
      .next ((({ s2 with tile := s1.tile } : State).onTile fun t => t.wordIssued s.now e k).deferFault c v none)
    | .park p s2 => .next ((({ s2 with tile := s1.tile } : State).onTile fun t => t.wordIssued s.now e k).deferFault 0 0 (some p))
    | .before => .next (s.onTile fun t => t.endBefore s.now none)
    | .ended w => .next (s.onTile fun t => t.endBefore s.now (some w))
    | .squash s2 => .next (({ s2 with tile := s1.tile } : State).onTile fun t => t.consumeSquash s.now)
    | .retry => .next (s.onTile fun t => { t with retry := true })
    | .again s2 => .next ({ s with needs := s2.needs }.onTile fun t => { t with retry := true })
  else .next (s1.onTile fun t => t.wordIssued s.now e k)

/-- A word of weight one. -/
def issue (e : Eng) (occ : Nat) (h : Hdr) (body : State → Act) (s : State) : Host.Outcome State Fault Refusal :=
  issueW e occ 1 h body s

/-! ### Results of fixed latency (R74, R152, R166) -/

/-- The flags of a word join the list of a chunk (R152). -/
def Chunk.raise (c : Chunk) (q i : Nat) (f e : FFlags) : Chunk :=
  if c.exc.any fun x => x.1 == q then
    { c with exc := mapIf (fun x => x.1 == q) (fun x => (q, i, x.2.2.1 ||| f, x.2.2.2 ||| e)) c.exc }
  else { c with exc := c.exc ++ [(q, i, f, e)] }

/-- Record the flags of the word that issues, for the end of its chunk (R152). -/
def Tile.raise (t : Tile) (f : FFlags) : Tile :=
  if f == 0 then t else t.modChunk t.iw.seq fun c => c.raise t.iw.seq t.iw.idx f (enabledFlags t.iw.caps.fpctl f)

/-- The exception of a chunk: the index and the flags of the earliest word that raised an enabled one, and whether every enabled one is
OO (R152). -/
def Chunk.exception (c : Chunk) : Option (Nat × FFlags × Bool) :=
  let l := c.exc.filter fun x => x.2.2.2 != 0
  (bestBy (fun a b => decide (a.1 < b.1)) l).map fun x => (x.2.1, x.2.2.1, l.all fun y => y.2.2.2.toNat % 32 == 0)

/-- Send a result on its way: it lands in cycle `cyc`; with V = 1 as three copies that are compared then (R74, R166,
R248): `w` is the width of an element of a vector destination. -/
def Tile.result (t : Tile) (v : Bool) (cyc : Nat) (d : Dest) (f : FFlags) (w : Nat := 32) : Tile :=
  let l : Landing := ⟨cyc, t.iw.seq, d, f⟩
  let t := t.raise f
  if v then { t with votes := t.votes ++ [⟨l, l, l, w⟩] } else { t with inflight := t.inflight ++ [l] }

/-- A result of the word that issues now, `lat` cycles after its last issue (R74). -/
def State.result (s : State) (h : Hdr) (occ lat : Nat) (d : Dest) (f : FFlags) : State :=
  s.onTile fun t => t.result h.v (s.now + (if h.v then 2 * occ else 0) + lat) d f

/-- s[r] as the word that issues reads it. -/
def State.sr (s : State) (r : SReg) : Word := s.tile.regs.sreg r.toNat
/-- s0 to s31 named by a field of format V. -/
def State.srv (s : State) (r : VReg) : Word := s.tile.regs.sreg r.toNat

/-! ### Results of variable latency (R75, R82) -/

/-- An interlocked result for word number `seq` lands: in the live registers, and in each start state taken after the
word, where it supersedes earlier results still in flight to the same place (R75, R82). -/
def StartState.landVar (x : StartState) (seq : Nat) (d : Dest) (f : FFlags) : StartState :=
  let same := fun (l : Landing) => decide (l.seq < seq) && match l.dest, d with
    | .sreg a _, .sreg b _ => a == b
    | .pred a _, .pred b _ => a == b
    | _, _ => false
  let cut := fun (l : Landing) => match l.dest, d with
    | .vec a v en, .vec b _ en2 => if a == b && decide (l.seq < seq) then { l with dest := .vec a v (en &&& ~~~en2) } else l
    | _, _ => l
  { x with regs := x.regs.land d f, inflight := (x.inflight.filter fun l => !same l).map cut }

/-- An interlocked result lands in a tile. -/
def Tile.landVar (t : Tile) (seq : Nat) (d : Dest) (f : FFlags) : Tile :=
  let upd := fun (c : Chunk) => if seq < c.first then { c with start := c.start.map fun st => st.landVar seq d f } else c
  { t with regs := t.regs.land d f, snap := t.snap.landVar seq d f, cur := t.cur.map upd, older := t.older.map upd }

/-! ### Ranges (R108) -/

/-- Whether two spans share a byte. -/
def Range.overlaps (a b : Range) : Bool := a.dev == b.dev && a.lo ≤ b.hi && b.lo ≤ a.hi

/-- The span of `n` bytes at an address, its device resolved (R103, R108). -/
def State.span (s : State) (ctx : BitVec 16) (ga : Word) (n : Nat) : Range :=
  let dev := match s.device ctx (fld ga 63 52) with | some (.there p _ _) => some p | _ => none
  ⟨dev, fld ga 51 0, fld ga 51 0 + n - 1⟩

/-- Engine commands held in a chunk (R94). -/
def Chunk.held (c : Chunk) : List Cmd := c.effects.filterMap fun e => match e.2 with | .command x => some x | _ => none

/-- Whether a span overlaps the footprint of a command held in the chunk of the word that issues (R110). -/
def State.meetsHeld (s : State) (r : Range) : Bool :=
  match s.tile.chunkOf s.tile.iw.seq with
  | some c => c.held.any fun x => x.wr.any (fun y => y.overlaps r) || x.rd.any (fun y => y.overlaps r)
  | none => false

/-- Whether the word that issues is the first of its chunk. -/
def State.isFirst (s : State) : Bool :=
  match s.tile.chunkOf s.tile.iw.seq with
  | some c => c.first == s.tile.iw.seq
  | none => true

/-- How a failed access ends a word.  A RETRY holds the word; where its own chunk buffers stores, the word ends the chunk
before itself, so that they can be redirected first (R139, DEDUCED, log 18). -/
def Bad.act (b : Bad) (s : State) : Act :=
  match b with
  | .precise c v => .trap c v
  | .deferred c v => .deferred c v s
  | .park p => .park p s
  | .retry =>
    match s.tile.chunkOf s.tile.iw.seq with
    | some c => if c.stores.isEmpty || s.isFirst then .retry else .before
    | none => .retry

/-- Record lines read (R86). -/
def State.noteReads (s : State) (l : List Nat) : State :=
  s.onTile fun t => t.modChunk t.iw.seq fun c => { c with reads := l.foldl (fun a k => insertNat k a) c.reads }

/-- Lines of the chunk's write set with more added. -/
def Chunk.addWrites (c : Chunk) (l : List Nat) : List Nat := l.foldl (fun a k => insertNat k a) c.writes

/-- A buffered store of the word that issues: the word ends the chunk before itself where the write set would pass 256
lines (R80, R86, R94). -/
def State.bufferStore (s : State) (lines : List Nat) (shared : Bool) (l : List Store) : Act :=
  let t := s.tile
  match t.chunkOf t.iw.seq with
  | none => .done { s with wb := s.wb ++ l }
  | some c =>
    let w := c.addWrites lines
    if 256 < w.length && c.first != t.iw.seq then .before
    else .done (s.onTile fun t => t.modChunk t.iw.seq fun c =>
      { c with stores := c.stores ++ l, writes := w, shared := c.shared || shared })

/-- Hold a side effect of the word that issues to its chunk's commit, in program order (R94). -/
def State.holdEffect (s : State) (e : Effect) : State :=
  s.onTile fun t => t.modChunk t.iw.seq fun c =>
    { c with effects := insertBy (fun a b : Nat × Effect => decide (a.1 < b.1)) (t.iw.seq, e) c.effects }

/-- Record the boundary operation of the word that issues (R80, R82). -/
def State.boundary (s : State) (op : BOp) : State :=
  s.onTile fun t => t.modChunk t.iw.seq fun c =>
    { c with bnd := some ⟨t.ident s.tileId, op, t.iw.idx, t.iw.seq, none, [], 0, false, false, none, t.iw.before⟩ }

/-- Fetch resumes after a word that stopped it (R73). -/
def State.resumeFetch (s : State) : State := s.onTile fun t => { t with fstop := false, fresume := s.now + 1 }

/-! ### Taking a trap (R225, R228, R231, R232) -/

/-- Bytes of the whole group `g` of a register value. -/
def groupBytes (x : BitVec 16384) (g : Nat) : Nat := x.toNat / 2 ^ (4096 * g) % 2 ^ 4096

/-- One group latch of the frame: descriptor word, 512 data bytes, 64 bytes of enables. -/
structure GLatch where
  word : Nat
  data : Nat
  ben : Nat
deriving DecidableEq, Repr

/-- Word 0 of a latch (R232). -/
def latchWord (left kind : Nat) (f : FFlags) (grp reg : Nat) : Nat :=
  min left 0xFFFF * 2 ^ 48 + kind * 2 ^ 32 + f.toNat * 2 ^ 16 + grp * 2 ^ 8 + reg

/-- Byte enables of a group from its bit enables: a byte of which any bit lands is enabled. -/
def byteEnables (en : Nat) : Nat := (List.range 512).foldl (fun a i => if en / 2 ^ (8 * i) % 256 == 0 then a else a + 2 ^ i) 0

/-- The latches of one result (R232): scalar latches as (word 0, value), group latches.  The data of a byte of which
only a part lands holds the register's own bits in the rest. (DEDUCED, log 45) -/
def latchesOf (x : StartState) (l : Landing) : List (Nat × Nat) × List GLatch :=
  let left := l.cyc - x.f
  match l.dest with
  | .sreg r v => ([(latchWord left 1 l.flags 0 r.toNat, v.toNat)], [])
  | .pred n v => ([(latchWord left 2 l.flags 0 n.toNat, if v then 1 else 0)], [])
  | .none => ([(latchWord left 1 l.flags 0 0, 0)], [])
  | .mask n v en =>
    let full := (x.regs.mask n.toNat &&& ~~~en) ||| (v &&& en)
    ([], [⟨latchWord left 2 l.flags 0 n.toNat, full.toNat, (List.range 64).foldl (fun a i => if en.toNat / 2 ^ (8 * i) % 256 == 0 then a else a + 2 ^ i) 0⟩])
  | .latch n v => ([], [⟨latchWord left 3 l.flags 0 n.toNat, ofBytes (v.image (lsbExp (vget x.regs.psw n.toNat))), 2 ^ 32 - 1⟩])
  | .vec r v en =>
    let full := mergeVec (vget x.regs.v r.toNat) v en
    ([], (List.range 4).filterMap fun g =>
      let e := groupBytes en g
      if e == 0 then none else some ⟨latchWord left 1 l.flags g r.toNat, groupBytes full g, byteEnables e⟩)

/-- A signed 16-bit difference of cycles. -/
def occField (o f : Nat) : Nat := wrapInt 16 ((o : Int) - f)

/-- The trap frame as bytes, from offset 0 to 0x57FF; HSCR is not written (R231). -/
def frameBytes (x : StartState) (f : Fetch) (tcause : Word) (epc rpc : Nat) (tval : Word) : List Byte :=
  let ls := (sortBy (fun a b : Landing => decide (a.seq < b.seq)) x.inflight).map (latchesOf x)
  let sc := ls.flatMap (·.1)
  let gr := ls.flatMap (·.2)
  let w := fun n => toBytes 8 n
  let r := x.regs
  let lv := fun i => vget f.loops i
  let pair := fun (l : Loop) => l.stop.toNat * 2 ^ 16 + l.start.toNat
  let loopsW := onebit 0 (lv 0).active + onebit 1 (lv 1).active + onebit 2 (lv 2).active
  let preds := (List.range 7).foldl (fun a i => a + onebit i (r.pred (i + 1))) 0
  w tcause.toNat ++ w (rpc % 2 ^ 13 * 2 ^ 32 + epc % 2 ^ 13) ++ w tval.toNat
    ++ w (occField x.ends.a x.f * 2 ^ 48 + occField x.ends.m x.f * 2 ^ 32 + occField x.ends.v x.f * 2 ^ 16 + occField x.ends.s x.f)
    ++ w (pair (lv 1) * 2 ^ 32 + pair (lv 0)) ++ w (loopsW * 2 ^ 32 + pair (lv 2))
    ++ w ((vget f.lc 1).toNat * 2 ^ 32 + (vget f.lc 0).toNat) ++ w (preds * 2 ^ 32 + (vget f.lc 2).toNat)
    ++ (List.range 4).flatMap (fun i => w (vget r.next i).toNat)
    ++ w r.fpctl.toNat ++ w r.vshape.toNat ++ w r.taskkey.toNat ++ w r.sampth.toNat
    ++ (List.range 2).flatMap (fun i => w (vget r.accw i).toNat) ++ (List.range 4).flatMap (fun i => w (vget r.psw i).toNat)
    ++ w (gr.length * 256 + sc.length) ++ toBytes 72 0
    ++ (List.range 64).flatMap (fun i => w (r.sreg i).toNat)
    ++ (List.range 7).flatMap (fun i => toBytes 64 (r.mask (i + 1)).toNat)
    ++ (List.range 4).flatMap (fun i => (vget r.ps i).image (lsbExp (vget r.psw i)))
    ++ toBytes 704 0
    ++ (List.range 64).flatMap (fun i => let e := sc.getD i (0, 0); w e.1 ++ w e.2)
    ++ (List.range 32).flatMap (fun i => w (gr.getD i ⟨0, 0, 0⟩).word ++ w 0)
    ++ toBytes 512 0
    ++ (List.range 32).flatMap (fun i => toBytes 512 (gr.getD i ⟨0, 0, 0⟩).data)
    ++ (List.range 32).flatMap (fun i => toBytes 64 (gr.getD i ⟨0, 0, 0⟩).ben)

/-- TCAUSE (R225). (DEDUCED, log 89) -/
def tcauseWord (code : Byte) (intpend engine restart lost : Bool) : Word :=
  BitVec.ofNat 64 (onebit 31 intpend + onebit 30 engine + onebit 29 restart + onebit 28 lost + code.toNat)

/-- Take a trap that reaches a task with a handler (R228): the frame of the start state `x` with fetch `f` is written to
the tile's slice, TCAUSE, TEPC, TVAL and TSTAT.INH are set, the results in the frame's latches do not land, and fetch
begins at THANDLER after a fetch break. -/
def State.enterHandler (s : State) (x : StartState) (f : Fetch) (r : TrapRec) (restart : Bool) : State :=
  let t := s.tile
  let tc := tcauseWord r.cause t.intr.isSome r.engine restart (t.lost && r.engine)
  let s := s.homeWrite (sliceBase s.tileId + frameOff) (frameBytes x f tc r.epc r.rpc r.tval)
  let regs := { x.regs with inh := true }
  s.onTile fun t =>
    { t with
      regs := regs
      inflight := []
      votes := []
      tcause := tc
      tepc := BitVec.ofNat 64 r.epc
      tval := r.tval
      lost := t.lost && !r.engine
      fetch := { f with pc := fld regs.thandler 12 0, loops := f.loops.map fun l => { l with active := false } }
      queue := []
      fstop := false
      fresume := s.now + 1
      older := none
      cur := none
      deferred := none
      trap := none
      trunc := false
      loneNext := false
      snap := { x with regs := regs, inflight := [], f := s.now, occ := t.occ, ends := t.ends } }

/-! ### Returning from a trap (R233) -/

/-- What a valid frame restores. -/
structure FrameIn where
  regs : Regs
  fetch : Fetch
  occ : List Int
  latches : List (Nat × Dest × FFlags)

/-- A scalar latch read back; none where it is malformed. -/
def scalarLatch (w v : Nat) : Option (List (Nat × Dest × FFlags)) :=
  let x := BitVec.ofNat 64 w
  let left := fld x 63 48
  let f := BitVec.ofNat 6 (fld x 21 16)
  if fld x 47 40 != 0 || fld x 31 22 != 0 || fld x 15 10 != 0 || fld x 7 6 != 0 then none
  else
    match fld x 39 32 with
    | 0 => some []
    | 1 => some [(left, .sreg (BitVec.ofNat 6 (fld x 5 0)) (BitVec.ofNat 64 v), f)]
    | 2 => some [(left, .pred (BitVec.ofNat 3 (fld x 5 0)) (v % 2 == 1), f)]
    | _ => none

/-- Bit enables of a group from its byte enables. -/
def bitEnables (ben : Nat) : Nat := (List.range 512).foldl (fun a i => if ben / 2 ^ i % 2 == 1 then a + 255 * 2 ^ (8 * i) else a) 0

/-- A group latch read back; none where it is malformed. -/
def groupLatch (w w1 data ben : Nat) : Option (List (Nat × Dest × FFlags)) :=
  let x := BitVec.ofNat 64 w
  let left := fld x 63 48
  let f := BitVec.ofNat 6 (fld x 21 16)
  if fld x 47 40 != 0 || fld x 31 22 != 0 || fld x 15 10 != 0 || fld x 7 6 != 0 || w1 != 0 then none
  else
    match fld x 39 32 with
    | 0 => some []
    | 1 =>
      let g := fld x 9 8
      some [(left, .vec (BitVec.ofNat 5 (fld x 5 0)) (BitVec.ofNat 16384 (data * 2 ^ (4096 * g)))
        (BitVec.ofNat 16384 (bitEnables ben * 2 ^ (4096 * g))), f)]
    | 2 => some [(left, .mask (BitVec.ofNat 3 (fld x 5 0)) (BitVec.ofNat 512 data) (BitVec.ofNat 512 (bitEnables (ben % 2 ^ 64))), f)]
    | 3 =>
      match imageOf (toBytes 32 data) with
      | some (a, _) => some [(left, .latch (BitVec.ofNat 2 (fld x 5 0)) a, f)]
      | none => none
    | _ => none

/-- Join optional lists; none if one is none. -/
def joinAll {α : Type} : List (Option (List α)) → Option (List α)
  | [] => some []
  | none :: _ => none
  | some x :: r => match joinAll r with | some y => some (x ++ y) | none => none

/-- Whether FPCTL and the window registers hold values that a CTLWR would refuse (R145, R157). -/
def fpctlRefused (w : Word) : Bool := fld w 63 22 != 0 || fld w 15 14 != 0 || fld w 7 5 != 0 || 5 ≤ fld w 2 0
def windowRefused (w : Word) : Bool := fld w 63 16 != 0

/-- SAMPTH holds a threshold that R220 refuses: RES0 bits, NaN, negative other than −0, or above 1.0. -/
def sampthRefused (w : Word) : Bool :=
  let c := fld w 31 0
  fld w 63 32 != 0 || c != 0x80000000 && decide (0x3F800000 < c)

/-- Read a frame from its bytes at `base`, with the tile's own earlier stores (R105, R231 to R233); none where it is malformed. (DEDUCED, log 34) -/
def readFrame (s : State) (base : Nat) (old : Regs) : Option FrameIn :=
  let w := fun o => BitVec.ofNat 64 (s.coreRead (base + o) 8)
  let num := fun o n => s.coreRead (base + o) n
  let nsc := fld (w 0xB0) 7 0
  let ngr := fld (w 0xB0) 15 8
  let w8 := w 0x08
  let w20 := w 0x20
  let w28 := w 0x28
  let res0 := fld w8 63 45 != 0 || fld w8 31 13 != 0 || fld w20 63 61 != 0 || fld w20 47 45 != 0 || fld w20 31 29 != 0
    || fld w20 15 13 != 0 || fld w28 63 35 != 0 || fld w28 31 29 != 0 || fld w28 15 13 != 0 || fld (w 0x38) 63 39 != 0
    || (List.range 4).any (fun i => fld (w (0x40 + 8 * i)) 63 48 != 0) || fld (w 0xB0) 63 16 != 0 || num 0xB8 72 != 0
    || num 0x540 704 != 0 || num 0xE00 512 != 0
  let refused := fpctlRefused (w 0x60) || shapeRefused (w 0x68) || fld (w 0x78) 63 32 != 0
    || (List.range 6).any fun i => windowRefused (w (0x80 + 8 * i))
  if res0 || refused || 64 < nsc || 32 < ngr then none
  else
    let imgs := (List.range 4).map fun i => (imageOf (toBytes 32 (num (0x4C0 + 32 * i) 32))).map fun a => [a.1]
    let sc := (List.range nsc).map fun i => scalarLatch (num (0x800 + 16 * i) 8) (num (0x808 + 16 * i) 8)
    let gr := (List.range ngr).map fun i =>
      groupLatch (num (0xC00 + 16 * i) 8) (num (0xC08 + 16 * i) 8) (num (0x1000 + 512 * i) 512) (num (0x5000 + 64 * i) 64)
    match joinAll imgs, joinAll sc, joinAll gr with
    | some ps, some scs, some grs =>
      let reg := fun i => w (0x100 + 8 * i)
      let regs : Regs := { old with
        s := Vector.ofFn fun i => if i.val = 0 then 0 else reg i.val
        p := Vector.ofFn fun i => if i.val = 0 then true else bitAt (w 0x38) (31 + i.val)
        m := Vector.ofFn fun i => if i.val = 0 then BitVec.allOnes 512 else BitVec.ofNat 512 (num (0x300 + 64 * (i.val - 1)) 64)
        ps := Vector.ofFn fun i => ps.getD i.val AccEntry.zero
        fpctl := w 0x60
        vshape := w 0x68
        taskkey := w 0x70
        sampth := w 0x78
        accw := Vector.ofFn fun i => w (0x80 + 8 * i.val)
        psw := Vector.ofFn fun i => w (0x90 + 8 * i.val)
        next := Vector.ofFn fun i => BitVec.ofNat 48 (fld (w (0x40 + 8 * i.val)) 47 0)
        inh := false }
      let lp := fun (x : Word) (hi : Nat) (act : Bool) =>
        (⟨act, BitVec.ofNat 13 (fld x (hi + 12) hi), BitVec.ofNat 13 (fld x (hi + 28) (hi + 16))⟩ : Loop)
      let loops : List Loop := [lp w20 0 (bitAt w28 32), lp w20 32 (bitAt w28 33), lp w28 0 (bitAt w28 34)]
      let lcs : List Nat := [num 0x30 4, num 0x34 4, num 0x38 4]
      let fetch : Fetch :=
        { pc := fld w8 44 32
          lc := Vector.ofFn fun i => BitVec.ofNat 32 (lcs.getD i.val 0)
          loops := Vector.ofFn fun i => loops.getD i.val ⟨false, 0, 0⟩ }
      some
        { regs := regs
          fetch := fetch
          occ := [signedOf 16 (fld (w 0x18) 15 0), signedOf 16 (fld (w 0x18) 31 16), signedOf 16 (fld (w 0x18) 47 32),
            signedOf 16 (fld (w 0x18) 63 48)]
          latches := scs ++ grs }
    | _, _, _ => none

/-- Restore a frame for delivery from cycle X′ = `x` on (R233): occupancy ends at X′ + OCC, latches land at X′ + LEFT in
entry order.  Results of the handler still in flight land at their times. -/
def Tile.restoreFrame (t : Tile) (f : FrameIn) (x : Nat) : Tile :=
  let o := fun i => ((x : Int) + f.occ.getD i 0).toNat
  let occ : Occ := ⟨o 0, o 1, o 2, o 3⟩
  let land := (List.range f.latches.length).filterMap fun i =>
    match f.latches[i]? with
    | some (left, d, fl) => some (⟨x + left, t.iw.seq, d, fl⟩ : Landing)
    | none => none
  { t with
    regs := f.regs
    inflight := t.inflight ++ land
    occ := occ
    ends := occ
    fetch := f.fetch
    fstop := false
    fresume := x
    snap := ⟨f.regs, t.inflight ++ land, occ, occ, x⟩ }

end Sys2Proof.Machine
end

