-- ==== Sys2Proof/Machine/Sched.lean ====
section
/-! DEFINITION. Launch blocks and their checks (R24 to R28), the holding die (R44), keys and sequence numbers (R45), the
heap and its spill (R50, R51), arrivals on continuations (R30) and futures (R32, R33). -/

namespace Sys2Proof.Machine
open Sys2Proof

/-! ### Launch blocks -/

/-- The launch block in eight words (R24, R25). -/
def blockOf (w : List Word) : Block :=
  let g := fun k => w.getD k 0
  { flags := BitVec.ofNat 32 (fld (g 0) 63 32)
    prog := BitVec.ofNat 32 (fld (g 0) 31 0)
    key := BitVec.ofNat 32 (fld (g 1) 63 32)
    region := BitVec.ofNat 32 (fld (g 1) 31 0)
    pkt := BitVec.ofNat 8 (fld (g 2) 63 56)
    status := BitVec.ofNat 8 (fld (g 2) 55 48)
    res := BitVec.ofNat 8 (fld (g 2) 47 40)
    bclass := BitVec.ofNat 8 (fld (g 2) 39 32)
    joincnt := BitVec.ofNat 16 (fld (g 2) 31 16)
    coord := BitVec.ofNat 16 (fld (g 2) 15 0)
    args := Vector.ofFn fun i => g (3 + i.val) }

def Block.join (b : Block) : Bool := b.flags.getLsbD 0
def Block.norebal (b : Block) : Bool := b.flags.getLsbD 1
def Block.mgmt (b : Block) : Bool := b.flags.getLsbD 2

/-- Who offers a block: a LAUNCH packet of a queue, an EXIT of a task of a region, a final arrival, or a counter
threshold (R42). -/
inductive Offer
  | packet (q : Nat)
  | exit (own : Nat)
  | join
  | threshold
deriving DecidableEq, Repr

/-- The die that carries virtual tile (0, 0) of a partition. -/
def State.headDie (s : State) (part : Nat) : Nat := ((s.virt part 0).map dieOf).getD 0

/-- The die that holds a task of a coordinate that comes from die `src` (R44). -/
def State.holdDie (s : State) (part : Nat) (coord : BitVec 16) (src : Nat) : Nat :=
  if coord == 0xFFFF then
    let l := (s.partTiles part).map dieOf
    if l.contains src then src else l.foldl min 3
  else
    match s.coordTile part coord with
    | some t => dieOf t
    | none => s.headDie part

/-- Whether a Chorus class takes members of a partition (R59, R62). -/
def ChClass.takes (c : ChClass) (part : Nat) : Bool :=
  c.window != 0 && 1 ≤ c.bsize.toNat && c.bsize.toNat ≤ 64 && c.part.toNat == part && c.pending.isNone

/-- A program-table entry (R54). -/
structure ProgEntry where
  image : Word
  baseprog : BitVec 32
  words : Nat
  diff : Word
  difflen : Nat
  crc : Nat
deriving DecidableEq, Repr

/-- The program-table entry in four words; none where it is malformed (R26, R54). -/
def progOf (w : List Word) : Option ProgEntry :=
  let x := fun k => w.getD k 0
  let e : ProgEntry := ⟨x 0, BitVec.ofNat 32 (fld (x 1) 63 32), fld (x 1) 13 0, x 2, fld (x 3) 63 32, fld (x 3) 31 0⟩
  if fld (x 1) 31 14 != 0 || e.words == 0 || 8192 < e.words || fld (x 0) 5 0 != 0 || fld (x 2) 2 0 != 0 || e.difflen % 8 != 0
  then none else some e

/-- Read a program-table entry; malformed is `none` inside, a failed read its cause (R26, R54, R55). -/
def progEntry (g : Agent) (base : Word) (prog : Nat) : M (Except Byte (Option ProgEntry)) := do
  match ← ask fun s => s.agentReads g (base.toNat + prog * 32) 4 with
  | .error c => return .error c
  | .ok w => return .ok (progOf w)

/-! ### Reservations of an EXIT (R320) -/

/-- Regions of the launched successors that the open chunks of a context hold, each a reservation of one queue entry. -/
def State.reserved (s : State) (ctx : BitVec 16) : List Nat :=
  s.tiles.flatMap fun t =>
    let x := s.tileAt t
    if x.ctxid != ctx then []
    else
      let of := fun (c : Option Chunk) => match c with
        | some c => c.effects.flatMap fun e => match e.2 with
            | .successors l => (l.filter fun y => !y.blk.join).map fun y => y.blk.region.toNat
            | _ => []
        | none => []
      of x.older ++ of x.cur

/-- As `fitsBudget` for the queue budget, counting the reservations `l` beside the charges (R36, R320). -/
def fitsQueue (g : Agent) (r : Nat) (l : List Nat) : M (Option Nat) := do
  match ← chain g r with
  | none => return some r
  | some c =>
    if broken c then return if Config.brokenHolds (← get).now (regionKey g r) Budget.queue.bit then none else some r
    let held ← l.filterMapM fun x => do
      match ← chain g x with
      | some y => return some (y.map (·.r))
      | none => return none
    return c.findSome? fun x =>
      let k := (held.filter fun y => y.contains x.r).length
      budgetMiss .queue (1 + k) [x]

/-! ### The spill area (R51) -/

/-- Entries spilled on a die. -/
def Die.spillCount (x : Die) : Nat := (x.buckets.map fun b => b.2.length).sum
/-- Heap places in use: heap entries and Chorus backlogs (R50). -/
def Die.heapCount (x : Die) : Nat := x.heap.length + (x.ch.toList.map fun c => c.backlog.length).sum
/-- Whether only the reserve, the last eighth of the segments, is left; whether nothing is. (DEDUCED, log 46) -/
def Die.reserveOnly (x : Die) : Bool := (x.segments.toNat - x.segments.toNat / 8) * 32 ≤ x.spillCount
def Die.spillFull (x : Die) : Bool := x.segments.toNat * 32 ≤ x.spillCount

/-! ### The checks of an offered block (R26, R28, R51) -/

/-- Whether every region from `r` to its root is ACTIVE: an inert region is refused as REGION (R38). -/
def chainActive (l : List Rung) : Bool := l.all fun x => fld (x.w.getD 0 0) 63 56 == 1

/-- Check an offered block by the agent `g` with program table `prog`, from die `src`, with `held` reserved: the LAUNCH
status code that refuses it and the region for TVAL (R26, R28, R320).  SPILL is met where the arrival would take a place of a full
heap: for an EXIT beside BUDGET, for a LAUNCH packet after every check of R26 (R51, DESIGN CHOICE, log 99). -/
def checkBlock (g : Agent) (prog : Word) (src : Nat) (o : Offer) (held : List Nat) (b : Block) : M (Option (Byte × Nat)) := do
  let r := b.region.toNat
  let thr := match o with | .threshold => true | _ => false
  if b.flags.toNat / 16 % 2 ^ 20 != 0 || b.res != 0 || 16 < b.bclass.toNat || b.mgmt && !thr then return some (0x01, r)
  let s ← get
  let d := s.holdDie g.part b.coord src
  if b.bclass != 0 && !(vget (s.die d).ch (b.bclass.toNat - 1)).takes g.part then return some (0x08, r)
  match ← rcbState g r with
  | none => return some (0x03, r)
  | some st =>
    if st == 0 || 3 < st then return some (0x03, r)
    match o with
    | .packet q =>
      if (← rootQueue g r) != some q then return some (0x03, r)
    | .exit own =>
      if !(← under g own r) then return some (0x03, r)
    | _ => pure ()
    if st != 1 then return some (0x05, r)
    match ← chain g r with
    | some l => if !chainActive l then return some (0x03, r)
    | none => return some (0x03, r)
    let refusable := match o with | .packet _ | .exit _ => true | _ => false
    if refusable then
      match ← fitsQueue g r held with
      | some k =>
        setStatus g r 3
        return some (0x02, k)
      | none => pure ()
    let x := s.die d
    let enters := b.bclass != 0 && ((vget x.ch (b.bclass.toNat - 1)).settle x.cyc.toNat).entersNow
    let full := !enters && 65536 ≤ x.heapCount && x.reserveOnly
    let isExit := match o with | .exit _ => true | _ => false
    if isExit && full then return some (0x09, r)
    if b.coord != 0xFFFF && (s.coordTile g.part b.coord).isNone then return some (0x06, r)
    match ← progEntry g prog b.prog.toNat with
    | .ok (some _) =>
      let isPkt := match o with | .packet _ => true | _ => false
      if isPkt && full then return some (0x09, r) else return none
    | _ => return some (0x07, r)

/-! ### Order, heap and spill (R45, R50) -/

/-- Better (R45). -/
def Entry.better (a b : Entry) : Bool := b.ek < a.ek || a.ek == b.ek && seqBefore a.seq b.seq

/-- Take a sequence number from a die's counter (R45). -/
def takeSeq (d : Nat) : M (BitVec 32) := fun s => ((s.die d).seq, s.modDie d fun x => { x with seq := x.seq + 1 })

/-- Put an entry into the heap of a die without a spill. -/
def heapPut (d : Nat) (e : Entry) : M Unit := modify fun s => s.modDie d fun x => { x with heap := x.heap ++ [e] }

/-- SpillTo (R50): the bucket of the entry's key.  The steps that it counts as applied are those up to its enqueue, or to the last one
of the die (R47, R51). -/
def spillTo (d : Nat) (e : Entry) : M Unit := modify fun s => s.modDie d fun x =>
  let b := e.ek.toNat / 2 ^ 24
  { x with buckets := Assoc.set [] b (Assoc.get [] b x.buckets ++ [{ e with aged := max x.ageStep (e.enq / 4096) }]) x.buckets }

/-- The worst entry by Better. -/
def worst (l : List Entry) : Option Entry := bestBy (fun a b => b.better a) l

/-- Whether an arrival at a heap, for itself or for a Chorus backlog, may take a place: at a full heap the worst of the heap entries and
the arrival spills; where the spill area is exhausted the arrival's queue is torn down and the arrival goes (R50, R51, R61). -/
def roomFor (g : Agent) (d : Nat) (e : Entry) : M Bool := do
  let x := (← get).die d
  if x.heapCount < 65536 then return true
  else if x.spillFull then
    match ← rootQueue g e.blk.region.toNat with
    | some q => teardown g g.who.qbase q
    | none => pure ()
    bill g .queue e.blk.region.toNat (-1)
    modify fun s => s.freeBuffer e.buffer
    return false
  else
    match worst (e :: x.heap) with
    | some v =>
      if v == e then
        spillTo d e
        return false
      else
        modify fun s => s.modDie d fun x => { x with heap := x.heap.filter fun y => y != v }
        spillTo d v
        return true
    | none => return true

/-- An entry arrives at the heap of a die (R50, R51). -/
def heapArrive (g : Agent) (d : Nat) (e : Entry) : M Unit := do
  if ← roomFor g d e then heapPut d e

/-- A Chorus member comes for its class: into the collecting slot where that is open and nothing waits before it, else into the backlog,
which takes a place of the heap (R50, R60). -/
def chorusArrive (g : Agent) (d : Nat) (e : Entry) : M Unit := do
  modify fun s => s.modDie d Die.settle
  let i := e.blk.bclass.toNat - 1
  let c := vget ((← get).die d).ch i
  let ok ← if c.entersNow then pure true else roomFor g d e
  if ok then
    modify fun s => s.modDie d fun x =>
      { x with ch := vset x.ch i (let c := vget x.ch i; { c with backlog := queueIn c.backlog e }.settle x.cyc.toNat) }

/-- Deadline class of a region on a die, none for class 0 (R48). -/
def dlOf (g : Agent) (d r : Nat) : M (Option DlClass) := do
  let k ← dlclass g r
  if k == 0 then return none else return some (vget ((← get).die d).dl (k - 1))

/-- The tiles to which a shrink has stopped dispatch: the one that goes and the one of the highest index (R63). -/
def State.stopTiles (s : State) : List Nat :=
  s.shrinks.flatMap fun t => match s.place t with
    | some (p, _) => t :: (s.virt p (s.partCount p - 1)).toList
    | none => [t]

/-- Whether a tile is free for dispatch (R18, R49, R63, R321). -/
def State.tileFree (s : State) (t : Nat) : Bool :=
  let x := s.tileAt t
  x.task.isNone && !x.ended && !x.failed && !s.stopTiles.contains t

/-- A BOOST has been applied: with no tile of the partition free, the running task of lowest EK, the later SEQ on ties, is
asked to yield (R236). -/
def State.askYield (s : State) (part : Nat) : State :=
  let l := s.partTiles part
  if l.any fun t => s.tileFree t then s
  else
    let run := l.filterMap fun t => (s.tileAt t).task.map fun k => (t, k)
    match bestBy (fun a b : Nat × Task => a.2.ek < b.2.ek || a.2.ek == b.2.ek && seqBefore b.2.seq a.2.seq) run with
    | some (t, _) => s.modTile t fun x => { x with preq := some (x.preq.getD (s.die (dieOf t)).cyc.toNat) }
    | none => s

/-- An entry with the BOOST of its class (R48). -/
def Entry.promoted (e : Entry) (c : DlClass) : Entry := { e with ek := if e.ek < c.boost then c.boost else e.ek, boosted := true }

/-- Apply BOOST to an entry when the class promotes at enqueue (R48, R236). -/
def promoteNow (g : Agent) (d : Nat) (e : Entry) : M Entry := do
  match ← dlOf g d e.blk.region.toNat with
  | some c =>
    if c.promote == 0 then do
      modify fun s => s.askYield g.part
      return e.promoted c
    else return e
  | none => return e

/-- An entry of a block with the key of its source on die `d` (R45). -/
def newEntry (g : Agent) (d : Nat) (b : Block) (ek : BitVec 32) : M Entry := do
  let q ← takeSeq d
  let c := ((← get).die d).cyc.toNat
  promoteNow g d
    { blk := b, ctx := g.who.ctx, ek := ek, seq := q, enq := c, boosted := false, limited := false, moving := none,
      saved := none, aged := 0, buffer := none, mgmt := none, upset := false }

/-- Enqueue a checked block (R42): the charge, the number, the key, then the heap or the Chorus of the holding die.
Enqueues into a region that is not ACTIVE are discarded (R38). -/
def enqueue (g : Agent) (src : Nat) (b : Block) (mgmt : Option Nat) : M Unit := do
  let r := b.region.toNat
  if (← rcbState g r) == some 1 then
    let d := (← get).holdDie g.part b.coord src
    bill g .queue r 1
    let e ← newEntry g d b (effKey b.key (← priobase g r))
    let e := { e with mgmt := mgmt }
    if b.bclass == 0 then heapArrive g d e
    else modify fun s => s.modDie d fun x => { x with chIn := x.chIn ++ [e] }

/-- A coordinate of a partition's grid as it stands: one that does not exist is rebound to (x mod W, y mod H), with y reduced by
one where that does not exist either (R63). -/
def State.rebound (s : State) (part : Nat) (coord : BitVec 16) : BitVec 16 :=
  if coord == 0xFFFF || (s.coordTile part coord).isSome then coord
  else
    let w := s.partWidth part
    let h := ceilDiv (s.partCount part) w
    if h == 0 then coord
    else
      let x := coord.toNat % 256 % w
      let y := coord.toNat / 256 % h
      let c := BitVec.ofNat 16 (y * 256 + x)
      if (s.coordTile part c).isSome then c else BitVec.ofNat 16 ((y - 1) * 256 + x)

/-- An entry with its coordinate rebound. -/
def State.rebind (s : State) (part : Nat) (e : Entry) : Entry := { e with blk := { e.blk with coord := s.rebound part e.blk.coord } }

/-- A task returns to Queued with its EK and SEQ, charged and never refused (R45, R36); nothing where its region is not
ACTIVE (R38, R58). -/
def requeue (g : Agent) (src : Nat) (e : Entry) : M Unit := do
  let r := e.blk.region.toNat
  if (← rcbState g r) == some 1 then
    let e := (← get).rebind g.part e
    let d := (← get).holdDie g.part e.blk.coord src
    bill g .queue r 1
    let c := ((← get).die d).cyc.toNat
    heapArrive g d { e with enq := c }
  else modify fun s => s.freeBuffer e.buffer

/-! ### Arrivals (R30, R321, R323) -/

/-- Set JERR in the RCB of a region (R30). -/
def jerr (g : Agent) (r : Nat) : M Unit := setStatus g r 0

/-- The die from which a continuation at a place comes (R44). -/
def State.homeSource (s : State) (part : Nat) (p : Spot) : Nat :=
  match p with
  | .here pa => if isSlice pa || isNear pa then homeDie pa else s.headDie part
  | .there .. | .stale => s.headDie part

/-- Arrive (R30) for the block at the 64-bit address `addr` (R31). -/
def arrive (g : Agent) (prog : Word) (region : Nat) (addr : Word) (failed : Bool) : M Unit := do
  let s ← get
  let here := match s.device g.who.ctx (fld addr 63 52) with | some .here => true | _ => false
  if !here || fld addr 5 0 != 0 then jerr g region
  else
    let va := fld addr 51 0
    match ← ask fun s => s.agentSpot g va true with
    | .error _ => jerr g region
    | .ok spot =>
      match ← ask fun s => s.agentReads g va 8 with
      | .error _ => jerr g region
      | .ok w =>
        let b := blockOf w
        if !b.join || b.joincnt == 0 then
          jerr g b.region.toNat
        else
          let f := if failed then b.flags ||| 8 else b.flags
          let n := b.joincnt - 1
          let _ ← ask fun s => s.agentWrite g va (BitVec.ofNat 64 (f.toNat * 2 ^ 32 + b.prog.toNat))
          let _ ← ask fun s => s.agentWrite g (va + 16) (setFld (w.getD 2 0) 31 16 n.toNat)
          if n == 0 then
            let b := { b with flags := f, joincnt := n }
            let src := (← get).homeSource g.part spot
            match ← checkBlock g prog src .join [] b with
            | none => enqueue g src b none
            | some _ => jerr g b.region.toNat

/-- The waiter cells of a future from cell `c` on, as their block addresses, and whether a cell could not be
read: one whose block address cannot be read is passed over, one whose next address faults ends the walk (R32, R324). -/
def waiters (g : Agent) : Nat → Nat → M (List Word × Bool)
  | 0, _ => return ([], false)
  | k + 1, c => do
    if c == 0 then return ([], false)
    else
      let own ← ask fun s => s.agentRead g (c + 8)
      let (l, b) ← do
        match ← ask fun s => s.agentRead g c with
        | .error _ => pure ([], true)
        | .ok w => waiters g k w.toNat
      match own with
      | .error _ => return (l, true)
      | .ok a => return (a :: l, b)

/-- Resolve or fail the future at `pa` (R32, R33): the value, the state, then the arrivals in flight, newest registration
first.  False where it is not EMPTY. -/
def resolve (g : Agent) (prog : Word) (pa : Nat) (value : Word) (fail : Bool) : M Bool := do
  let w0 := (← get).home64 pa
  if fld w0 1 0 != 0 then return false
  else
    modify fun s => (s.agentStore g (pa + 8) value).agentStore g pa (if fail then 2 else 1)
    let (l, broken) ← waiters g 16384 (fld w0 63 16 * 16)
    modify fun s => { s with arrivals := s.arrivals ++ l.map fun a => ⟨a, fail, g.who, prog⟩ }
    if broken then jerr g g.who.region.toNat
    return true

end Sys2Proof.Machine
end

