-- ==== Sys2Proof/Machine/WinRead.lean ====
section
/-! DEFINITION. Reads of the control windows: the register blocks of R62, R140, R214, R253, R281 and R297 at the offsets of
R422.  An offset that no register holds reads as zero (R104). -/

namespace Sys2Proof.Machine
open Sys2Proof

/-- A word from fields (value, lowest bit). -/
def pack (l : List (Nat × Nat)) : Word := BitVec.ofNat 64 (l.foldl (fun a x => a + x.1 * 2 ^ x.2) 0)

/-- A flag as a number. -/
def flag (b : Bool) : Nat := if b then 1 else 0

/-- Highest non-empty bucket of a die (R62). -/
def Die.topBucket (x : Die) : Nat := ((x.buckets.filter fun b => !b.2.isEmpty).map (·.1)).foldl max 0
/-- Whether a bucket is not empty. -/
def Die.spilled (x : Die) : Bool := x.buckets.any fun b => !b.2.isEmpty

/-- The scheduler block (R62). -/
def schedRead (x : Die) (o : Nat) : Word :=
  if o == 0x000 then pack [(flag x.spilled, 63), (flag x.renum, 62), (x.topBucket, 48), (x.heapCount % 2 ^ 17, 0)]
  else if o == 0x008 then x.spillbase
  else if o == 0x010 then pack [(x.segments.toNat, 32)]
  else if o == 0x018 then pack [(x.margin.toNat, 32), (flag x.rebalEn, 0)]
  else if o == 0x020 then BitVec.ofNat 64 x.spillCount
  else if o == 0x028 then pack [(x.cctx.toNat, 48), (x.cregion.toNat, 0)]
  else if o == 0x030 then pack [(flag x.cbusy, 16), (x.canccnt.toNat, 0)]
  else if 0x110 ≤ o && o < 0x200 then
    let c := vget x.dl ((o - 0x110) / 16)
    if o % 16 == 0 then pack [(c.boost.toNat, 32), (c.promote.toNat, 0)]
    else pack [(c.limit.toNat, 32), (c.dlmiss.toNat, 16), (flag c.drop, 0)]
  else if 0x200 ≤ o && o < 0x400 then
    let c := vget x.ch ((o - 0x200) / 32)
    match o % 32 / 8 with
    | 0 => pack [(c.region.toNat, 32), (c.prog.toNat, 0)]
    | 1 => match c.pending with
      | some v => pack [(fld v 47 32, 32), (fld v 31 24, 24), (fld v 22 16, 16), (fld v 15 0, 0)]
      | none => pack [(c.coord.toNat, 32), (c.part.toNat, 24), (c.bsize.toNat, 16), (c.window.toNat, 0)]
    | 2 => c.listbase
    | _ => c.userarg
  else 0

/-- The translation block (R140). -/
def xlateRead (s : State) (x : Die) (o : Nat) : Word :=
  match o / 8 with
  | 0 => pack [(flag x.stale, 4), (flag x.kvbad, 3), (flag x.kvempty, 2), (flag s.povf, 1), (flag x.twinused, 0)]
  | 1 => x.twinrec
  | 2 => x.fmbase
  | 3 => pack [(x.kvframes.toNat, 44), (x.kvarena.toNat, 16)]
  | 4 => x.kvpoolbase
  | 5 => pack [(x.kvpoolcap.toNat, 32), (x.kvpoolcnt.toNat, 0)]
  | 6 => x.kvfree
  | 7 => x.pagein
  | 8 => x.poisonclr
  | 9 => x.migold
  | 10 => pack [(x.ndev.toNat, 52), (x.nframe.toNat, 16)]
  | 11 => pack [(flag x.migDone, 9), (flag x.migStart, 8), (x.ngen.toNat, 0)]
  | 12 => match x.mig with | some m => pack [(m.newState.toNat, 0)] | none => 0
  | _ => 0

/-- Nodes of a die that are free (R214). -/
def State.freeNodes (s : State) (d : Nat) : Nat := 2 ^ 20 - (s.nodes.filter fun e => e.1 / 2 ^ 20 == d).length

/-- The NSM block (R214). -/
def nsmRead (s : State) (d : Nat) (x : Die) (o : Nat) : Word :=
  match o / 8 with
  | 0 => BitVec.ofNat 64 (s.freeNodes d)
  | 1 => pack [(flag x.rembad, 2), (flag x.badfree, 1), (flag x.badwalk, 0)]
  | 2 => x.errnode
  | _ => 0

/-- Entries of a die that hold a save slot (R253). -/
def Die.savedCount (x : Die) : Nat :=
  ((x.heap ++ x.moves.map (·.2) ++ x.buckets.flatMap (·.2) ++ x.parked.map (·.entry)).filter fun e => e.saved.isSome).length

/-- Free save slots of a die (R253). (DEDUCED, log 83) -/
def Die.freeSlots (x : Die) : Nat := x.slots.toNat - x.savedCount

/-- TSTATE of a tile (R253). -/
def Tile.tstate (t : Tile) : Nat :=
  if t.failed then 5
  else match t.gate with
    | .entering .. => 2
    | .gated => 3
    | .ungating _ => 4
    | .awake => if t.task.isSome then 1 else 0

/-- The physical tile of die-local index y × 16 + x (R8, R253). -/
def localTile (d i : Nat) : Nat := d * 128 + i

/-- The containment block (R253). -/
def containRead (s : State) (d : Nat) (x : Die) (o : Nat) : Word :=
  let tile := fun b => s.tileAt (localTile d ((o - b) / 8))
  if o == 0x000 then x.savebase
  else if o == 0x008 then pack [(x.slots.toNat, 32), (x.freeSlots, 0)]
  else if o == 0x010 then pack [(x.wdsaves.toNat, 32), (x.votefix.toNat, 0)]
  else if o == 0x018 then x.parfix
  else if o == 0x020 then pack [(x.ecode.toNat, 56), (x.etile.toNat, 47)]
  else if o == 0x028 then x.eaddr
  else if 0x100 ≤ o && o < 0x500 then BitVec.ofNat 64 (tile 0x100).intrReg.toNat
  else if 0x500 ≤ o && o < 0x900 then BitVec.ofNat 64 (flag (tile 0x500).wakeReg)
  else if 0x900 ≤ o && o < 0xD00 then BitVec.ofNat 64 (flag (tile 0x900).preq.isSome)
  else if 0xD00 ≤ o && o < 0x1100 then
    let t := tile 0xD00
    pack [(t.ucount.toNat, 32), (t.fbank.toNat, 5), (flag t.degraded, 4), (t.tstate, 0)]
  else 0

/-- 32 bytes of a slot or staging image (R260, R261). -/
def slotBytes (l : Assoc (List Byte)) (n : Nat) : List Byte :=
  let b := Assoc.get [] n l
  (List.range 32).map fun i => b.getD i 0

/-- The fabric block (R281). -/
def fabricRead (x : HostDie) (o : Nat) : Word :=
  let half := fun (f : Nat → Nat) (i : Nat) => pack [(f (i + 1), 32), (f i, 0)]
  if o == 0x000 then pack [(flag x.en, 12), (x.devid.toNat, 0)]
  else if o == 0x008 then x.ctxbase
  else if o == 0x010 then pack [(x.rtimeout.toNat, 32), (x.fwdcap.toNat, 0)]
  else if o == 0x018 then x.fwdbase
  else if o == 0x020 then pack [(x.errlost.toNat, 48), (x.tmo.toNat, 32), (x.lostops.toNat, 16), (flag x.badimg, 0)]
  else if o == 0x028 then x.lastfail
  else if o == 0x030 then x.owner
  else if o == 0x038 then x.ownerbrk
  else if o == 0x040 then pack [(x.refused.toNat, 32), (flag x.badpart, 0)]
  else if 0x100 ≤ o && o < 0x200 then
    let p := vget x.ports ((o - 0x100) / 8)
    pack [(flag p.pen, 2), (flag p.up, 1), (flag p.downev, 0)]
  else if 0x800 ≤ o && o < 0x1000 then Assoc.get 0 ((o - 0x800) / 8) x.vfmap
  else if 0x1000 ≤ o && o < 0x1800 then half (fun i => (Assoc.get 0 i x.pmap).toNat) ((o - 0x1000) / 4)
  else if 0x1800 ≤ o && o < 0x1A00 then half (fun i => (Assoc.get 0 i x.pwidth).toNat) ((o - 0x1800) / 4)
  else if 0x8000 ≤ o && o < 0x10000 then
    BitVec.ofNat 64 (ofBytes (((slotBytes x.slots ((o - 0x8000) / 32)).drop (o % 32)).take 8))
  else 0

/-- The power block (R297). -/
def powerRead (x : HostDie) (o : Nat) : Word :=
  if o == 0x000 then pack [(x.pmod.toNat, 32), (x.plimit.toNat, 0)]
  else if o == 0x008 then
    pack ([(x.physt.toNat, 48), (x.kmin.toNat, 36)] ++ (List.range 4).map fun d => ((vget x.duty d).toNat, 20 + 4 * d))
  else if 0x100 ≤ o && o < 0x200 then
    let t := vget x.thresholds ((o - 0x100) / 16)
    if o % 16 == 0 then pack [(t.sel.toNat, 60), (flag t.dir, 59), (flag t.en, 58), (t.level.toNat, 0)] else t.blk
  else if o == 0x200 then x.tenbase
  else if o == 0x208 then pack [(x.qtimeout.toNat, 32), (flag x.measlock, 0)]
  else 0

/-- An 8-byte read of the control windows at offset `off` from 0x0008_0000_0000 (R104, R422). -/
def State.windowRead (s : State) (off : Nat) : Word :=
  let w := off / 0x10000000
  let o := off % 0x10000000
  let b := o % 0x10000
  if w < 4 then
    let x := s.die w
    match o / 0x10000 with
    | 0 => schedRead x b
    | 1 => xlateRead s x b
    | 2 => nsmRead s w x b
    | 3 => containRead s w x b
    | _ => 0
  else
    match o / 0x10000 with
    | 0 => fabricRead s.host b
    | 2 => powerRead s.host b
    | _ => 0

end Sys2Proof.Machine
end

