-- ==== Sys2Proof/Machine/Access.lean ====
section
/-! DEFINITION. Reads that meet an uncorrectable error: rebuild from parity, failed banks, poisoned lines (R244, R245), and
consumption by the core (R250). -/

namespace Sys2Proof.Machine
open Sys2Proof

/-- A read of the core: a first consumed error squashes the chunk, a repeat is POISON_DATA on the word, with the line's
address (R250). -/
def State.consume (s : State) (pa n : Nat) (k : State → Act) : Act :=
  let (s, bad) := s.sense pa n
  if !bad then k s
  else
    match s.tile.chunkOf s.tile.iw.seq with
    | some c => if c.consumed then .deferred causePoisonData (BitVec.ofNat 64 (pa / 64 * 64)) s else .squash s
    | none => .deferred causePoisonData (BitVec.ofNat 64 (pa / 64 * 64)) s

/-- The same over pieces of memory. (DEDUCED, log 16) -/
def consumeAll (l : List (Nat × Nat)) (k : State → Act) (s : State) : Act :=
  match l with
  | [] => k s
  | (pa, n) :: r => s.consume pa n (fun s => consumeAll r k s)

/-! ### Commands held by a tile (R94, R109) -/

/-- Whether the task of a tile is marked cancelled (R29). -/
def Tile.cancelled (x : Tile) : Bool := match x.task with | some k => k.cancelled | none => false

/-- The commands of the open chunks, in program order.  Those of a cancelled task will not be released, and no word waits for
them (R29). -/
def Tile.heldCmds (t : Tile) : List Cmd :=
  if t.cancelled then [] else (match t.older with | some c => c.held | none => []) ++ (match t.cur with | some c => c.held | none => [])

/-- Whether a matrix-queue command is a COPYM follow-on whose copy has not completed. -/
def Cmd.waitsCopy (c : Cmd) : Bool := c.follow.isSome && c.copyDone.isNone

/-- Released commands that have not completed (R109). -/
def Tile.activeCmds (t : Tile) : List Cmd :=
  t.released ++ t.mqueue ++ (t.xfers.toList.filterMap fun x => x.map (·.cmd)) ++ t.chans.toList.flatten

/-- Commands that count against the 64 of the queue: those held, which a commit releases (R94). -/
def Tile.cmdCount (t : Tile) : Nat := t.heldCmds.length

/-- Whether a command is a copy with a transfer identifier. -/
def CmdOp.isCopy : CmdOp → Bool
  | .copy .. | .gath .. | .scat .. => true
  | _ => false

/-- Copies of a channel that have not completed, in identifier order (R195). -/
def Tile.copiesOf (t : Tile) (ch : Nat) : List Cmd :=
  ((match t.xfers[ch]? with | some (some x) => [x.cmd] | _ => []) ++ (t.chans.toList.getD ch []) ++ t.released ++ t.heldCmds).filter
    fun c => c.op.isCopy && c.ch.toNat == ch

/-- TIDSTc (R121, R195): the lowest identifier assigned and not completed, else NEXTc. -/
def Tile.tidst (t : Tile) (ch : Nat) : BitVec 48 :=
  match t.copiesOf ch with
  | c :: _ => c.tid
  | [] => vget t.regs.next ch

end Sys2Proof.Machine
end

