-- ==== Sys2Proof/Machine/Fabric.lean ====
section
/-! DEFINITION. Packets of the fabric and the requests that a tile or the host die sends (R255 to R265, R267 to R269). -/

namespace Sys2Proof.Machine
open Sys2Proof

/-! ### Packet kinds (R255) -/

def kLoad : Nat := 0x01
def kStore : Nat := 0x02
def kFar : Nat := 0x03
def kAmo : Nat := 0x04
def kCas : Nat := 0x05
def kWalk : Nat := 0x06
def kCopydata : Nat := 0x07
def kReply : Nat := 0x08
def kRouteerr : Nat := 0x09
def kProbe : Nat := 0x0A

/-- The 32 bytes of the header flit (R255). -/
def Packet.header (p : Packet) : List Byte :=
  (List.range 24).map (fun i => p.hop.getD i 0) ++ toBytes 8 (p.kind % 64 * 2 ^ 58 + p.hops % 32 * 2 ^ 53 + p.ptr % 32 * 2 ^ 48
    + onebit 47 p.mc + p.plen % 16 * 2 ^ 43 + p.srcdev.toNat * 2 ^ 31 + p.dstdev.toNat * 2 ^ 19 + p.srcag.toNat * 2 ^ 9 + p.res.toNat)

/-- A packet from the bytes of its header flit, and its body. -/
def packetOf (h body : List Byte) : Packet :=
  let w := BitVec.ofNat 64 (ofBytes (h.drop 24))
  { hop := h.take 24, kind := fld w 63 58, hops := fld w 57 53, ptr := fld w 52 48, mc := bitAt w 47, plen := fld w 46 43,
    srcdev := BitVec.ofNat 12 (fld w 42 31), dstdev := BitVec.ofNat 12 (fld w 30 19), srcag := BitVec.ofNat 10 (fld w 18 9),
    res := BitVec.ofNat 9 (fld w 8 0), body := body }

/-- PORT and LANE of a hop byte (R256). -/
def hopPort (b : Byte) : Nat := b.toNat / 4
def hopLane (b : Byte) : Nat := b.toNat % 4

/-- The checks of a router on the next hop (R262); none passes. -/
def State.hopCheck (s : State) (p : Packet) : Option Byte :=
  let b := p.hop.getD p.ptr 0
  let port := s.host.ports[hopPort b]?
  if !s.host.en then some causeRouteDown
  else if p.kind == 0 || 10 < p.kind || p.hops == 0 || 24 < p.hops || p.hops ≤ p.ptr || 8 < p.plen || p.res != 0 then some causeRouteBad
  else
    match port with
    | none => some causeRouteBad
    | some x =>
      if !x.pen then some causeRouteBad
      else if p.ptr != 0 && hopLane b < hopLane (p.hop.getD (p.ptr - 1) 0) then some causeRouteBad
      else if !x.up then some causeRouteDown
      else none

/-- Pad bytes to whole flits. -/
def padFlits (l : List Byte) : List Byte := l ++ List.replicate (ceilDiv l.length 32 * 32 - l.length) 0

/-- The body of a request: command flit and data flits (R264). -/
def Request.body (q : Request) (seq : BitVec 32) : List Byte :=
  toBytes 8 (q.addr % 2 ^ 52)
    ++ toBytes 8 (seq.toNat * 2 ^ 32 + q.rctx.toNat * 2 ^ 16 + onebit 15 q.gen.isSome + q.opc % 128 * 2 ^ 8 + (q.gen.getD 0).toNat)
    ++ toBytes 8 q.oper0.toNat ++ toBytes 8 q.oper1.toNat ++ padFlits q.data

/-- The packet that carries a body over a slot as it stands (R255, R260). -/
def State.packetTo (s : State) (kind : Nat) (pdev : BitVec 12) (slot : BitVec 10) (ag : Nat) (body : List Byte) : Packet :=
  let img := slotBytes s.host.slots slot.toNat
  { hop := img.take 24, kind := kind, hops := (img.getD 24 0).toNat % 32, ptr := 0, mc := false, plen := body.length / 32,
    srcdev := s.host.devid, dstdev := pdev, srcag := BitVec.ofNat 10 ag, res := 0, body := body }

/-- Give a packet of a source agent to the router: the check of its first hop comes first (R262, R263). -/
def State.launch (s : State) (p : Packet) : State × Option Byte :=
  match s.hopCheck p with
  | some c => (s, some c)
  | none => (s.modHost fun h => { h with outbound := h.outbound ++ [p] }, none)

/-- The counter on which an agent counts RTIMEOUT (R16, R267). -/
def State.agentCyc (s : State) (ag : Nat) : Nat := if ag < 512 then (s.die (dieOf ag)).cyc.toNat else s.host.cyc.toNat

/-- A new sequence number of a tile, the source of its stores, atomics and requests (R139). -/
def State.takeSrcSeq (s : State) (t : Nat) : BitVec 32 × State :=
  ((s.tileAt t).srcSeq, s.modTile t fun x => { x with srcSeq := x.srcSeq + 1 })

/-- Send a request of a tile and keep it until it is answered (R267); a failure at the source router is the answer. -/
def State.request (s : State) (t : Nat) (q : Request) (fin : RFin) (loadSeq part idx : Nat) : State × Option Byte :=
  let (n, s) := s.takeSrcSeq t
  let body := q.body n
  match s.launch (s.packetTo q.kind q.pdev q.slot t body) with
  | (s, some c) => (s, some c)
  | (s, none) =>
    let r : RReq := { id := n.toNat, kind := q.kind, ga := q.ga, pdev := q.pdev, slot := q.slot, body := body,
                      sent := s.agentCyc t, fin := fin, loadSeq := loadSeq, part := part, got := none, idx := idx, again := 0 }
    (s.modTile t fun x => { x with remote := x.remote ++ [r] }, none)

/-- Send a request of the host-die agent: a forwarded walk, a packet copy (with its key), a probe or a fill copy (R255, R267,
R274). -/
def State.hostRequest (s : State) (q : Request) (fin : RFin) (key : Nat) (part : Nat := 0) : State × Option Byte :=
  let n := s.host.hostSeq
  let s := s.modHost fun h => { h with hostSeq := h.hostSeq + 1 }
  let body := q.body n
  match s.launch (s.packetTo q.kind q.pdev q.slot 0x200 body) with
  | (s, some c) => (s, some c)
  | (s, none) =>
    let r : RReq := { id := n.toNat, kind := q.kind, ga := q.ga, pdev := q.pdev, slot := q.slot, body := body,
                      sent := s.host.cyc.toNat, fin := fin, loadSeq := key, part := part, got := none, idx := 0, again := 0 }
    (s.modHost fun h => { h with hostReqs := h.hostReqs ++ [r] }, none)

/-- The request of an access at a remote place: through a global address, or physical through a leaf (R268, R269). -/
def Place.request (p : Place) (kind opc : Nat) (ga : Word) (o0 o1 : Word) (data : List Byte) : Option Request :=
  match p with
  | .remote d c k la => some ⟨kind, ga, d, c, k, la, none, opc, o0, o1, data⟩
  | .phys d c k pa g _ => some ⟨kind, ga, d, c, k, pa, some g, opc, o0, o1, data⟩
  | _ => none

/-- Status codes of R202 for causes, and back; 0 for OK. -/
def statusOf (c : Byte) : Byte :=
  if c == causePageAbsent then 0x10 else if c == causePagePerm then 0x11 else if c == causePageFormat then 0x12
  else if c == causePoisonXlate then 0x13 else if c == causePoisonData then 0x14 else if c == causeBudget then 0x15
  else if c == causeRouteBad then 0x16 else if c == causeRouteDown then 0x17 else if c == causeFutureTwice then 0x18
  else if c == causeMisalign then 0x19 else 0x11

def causeOf (st : Byte) : Byte :=
  match st.toNat with
  | 0x10 => causePageAbsent | 0x11 => causePagePerm | 0x12 => causePageFormat | 0x13 => causePoisonXlate
  | 0x14 => causePoisonData | 0x15 => causeBudget | 0x16 => causeRouteBad | 0x17 => causeRouteDown
  | 0x18 => causeFutureTwice | 0x19 => causeMisalign | 0x01 => causePageAbsent | _ => causePagePerm

/-! ### Words of another device's frame (DESIGN CHOICE, log 14) -/

/-- The 64-bit words around pieces (physical address, length) of a frame of another device, as (local address, physical address):
`va` and `pa` belong to one byte of it. -/
def wordsAround (va pa : Nat) (l : List (Nat × Nat)) : List (Nat × Nat) :=
  ((l.flatMap fun q => (List.range ((q.1 + q.2 - 1) / 8 - q.1 / 8 + 1)).map fun i => (q.1 / 8 + i) * 8).eraseDups).map fun a =>
    (va + a - pa, a)

/-- Words of a frame of another device are needed: those not read yet are asked for; the answer is the failure of one that could
not be read, with its address. -/
def State.pullWords (s : State) (ctx : BitVec 16) (p : BitVec 12) (k : BitVec 16) (slot : BitVec 10) (gen : Byte) :
    List (Nat × Nat) → State × Option (Byte × Word)
  | [] => (s, none)
  | (va, pa) :: r =>
    match s.pulled.find? fun x => x.ctx == ctx && x.va == va with
    | some x =>
      let s : State := { s with pulled := mapIf (fun y => y.ctx == ctx && y.va == va) (fun y => { y with used := true }) s.pulled }
      if x.cause == 0 then s.pullWords ctx p k slot gen r else (s, some (x.cause, BitVec.ofNat 64 va))
    | none =>
      let q : Request := ⟨kLoad, BitVec.ofNat 64 va, p, k, slot, pa, some gen, 3, 0, 0, []⟩
      ({ s with needs := s.needs ++ [(ctx, va, q)] } : State).pullWords ctx p k slot gen r

/-- A number from bytes read one by one. -/
def readBytes (f : Nat → Nat) (a : Nat) : Nat → Nat
  | 0 => 0
  | n + 1 => f a + 256 * readBytes f (a + 1) n

/-- Bytes of such a frame by physical address, from the words read. -/
def State.pulledRead (s : State) (ctx : BitVec 16) (va pa : Nat) : Nat → Nat → Nat :=
  readBytes fun a =>
    let b := va + a - pa
    match s.pulled.find? fun x => x.ctx == ctx && x.va == b / 8 * 8 with
    | some x => fld x.word (8 * (b % 8) + 7) (8 * (b % 8))
    | none => 0

/-- The size code of an access of n bytes (R265). -/
def sizeCode (n : Nat) : Nat := if n == 1 then 0 else if n == 2 then 1 else if n == 4 then 2 else if n == 8 then 3 else 4

end Sys2Proof.Machine
end

