-- ==== Sys2Proof/Machine/Control.lean ====
section
/-! DEFINITION. Control flow, chunks, traps and control registers: the other words of the S engine (R72, R73, R76 to R78,
R80, R301, R305, R306, R310, R316, R317, R320, R327, R333, R364, R366, R367, R380, R412 to R414). -/

namespace Sys2Proof.Machine
open Sys2Proof

/-! ### Branches (R73, R77) -/

/-- Fetch continues at `pc`: levels whose body does not hold it close (R77). -/
def Fetch.jump (f : Fetch) (pc : Nat) : Fetch :=
  { f with pc := pc, loops := f.loops.map fun l => { l with active := l.active && l.start.toNat ≤ pc && pc ≤ l.stop.toNat } }

/-- A jump of the word that issues to an absolute target: ILLEGAL where it is not below 8,192 (R305). -/
def jumpTo (target : Int) (s : State) : Act :=
  if 0 ≤ target ∧ target < 8192 then .done (s.onTile fun t => { t with fetch := t.fetch.jump target.toNat })
  else illegal s

/-- A word of S that stops fetch until it issues (R73). -/
def stopWord (h : Hdr) (body : State → Act) (s : State) : Host.Outcome State Fault Refusal :=
  issue .S 1 h body s.resumeFetch

/-- The word index plus a signed offset. -/
def State.relTarget (s : State) (off : BitVec 32) : Int := (s.tile.iw.idx : Int) + off.toInt

/-- BR (R305). -/
def execBr (h : Hdr) (off : BitVec 32) (s : State) : Host.Outcome State Fault Refusal :=
  stopWord h (fun s => jumpTo (s.relTarget off) s) s

/-- JMP to a label (R327). -/
def execJmpRel (h : Hdr) (off : BitVec 32) (s : State) : Host.Outcome State Fault Refusal :=
  stopWord h (fun s => jumpTo (s.relTarget off) s) s

/-- JMP to s[a] (R327). -/
def execJmpReg (h : Hdr) (a : SReg) (s : State) : Host.Outcome State Fault Refusal :=
  stopWord h (fun s => jumpTo (s.sr a).toNat s) s

/-- CALL writes PC + 1 to its link register and jumps (R306). -/
def execCall (h : Hdr) (link : SReg) (off : BitVec 32) (s : State) : Host.Outcome State Fault Refusal :=
  stopWord h (fun s => jumpTo (s.relTarget off) (s.result h 1 1 (.sreg link (BitVec.ofNat 64 (s.tile.iw.idx + 1))) 0)) s

/-- RET jumps to s[link] (R364). -/
def execRet (h : Hdr) (link : SReg) (s : State) : Host.Outcome State Fault Refusal :=
  stopWord h (fun s => jumpTo (s.sr link).toNat s) s

/-! ### Loops, alignment, chunk ends -/

/-- LOOP (R76, R333): nesting checks, then the level opens or a zero count passes over the body. -/
def execLoop (h : Hdr) (n : LoopN) (c : LCount) (e : BitVec 9) (s : State) : Host.Outcome State Fault Refusal :=
  stopWord h (fun s =>
    let k := match n with | .lc0 => 0 | .lc1 => 1 | .lc2 => 2
    let count := match c with | .reg r => BitVec.ofNat 32 (fld (s.sr r) 31 0) | .imm i => i.zeroExtend 32
    let first := s.tile.iw.idx + 1
    let last := s.tile.iw.idx + e.toNat
    let open_ := s.tile.fetch.loops.toList.filter (·.active)
    if (vget s.tile.fetch.loops k).active || open_.any (fun l => first < l.start.toNat || l.stop.toNat < last) then illegal s
    else if count == 0 then .done (s.onTile fun t => { t with fetch := t.fetch.jump (last + 1) })
    else .done (s.onTile fun t => { t with fetch := { t.fetch with
      pc := first
      lc := vset t.fetch.lc k count
      loops := vset t.fetch.loops k ⟨true, BitVec.ofNat 13 first, BitVec.ofNat 13 last⟩ } })) s

/-- ALIGN issues in its cycle A, from which the D of the next word on each engine counts (R72, R301). (DEDUCED, log 35) -/
def execAlign (h : Hdr) (s : State) : Host.Outcome State Fault Refusal :=
  issue .S 1 h (fun s => .done (s.onTile fun t => { t with occ := ⟨s.now, s.now, s.now, s.now⟩ })) s

/-- CHUNK ends its chunk at itself, at delivery, and has no other effect (R310). -/
def execChunk (h : Hdr) (s : State) : Host.Outcome State Fault Refusal := issue .S 1 h .done s

/-- A word of the running program. -/
def Tile.progWord (t : Tile) (i : Nat) : Word := Assoc.get 0 i (vget t.planes (if t.plane then 1 else 0)).words

/-- SAFEPT (R237, R367): with a request pending and a slot free the task is saved after the commit. (DESIGN CHOICE, log 97) -/
def execSafept (h : Hdr) (map : BitVec 13) (s : State) : Host.Outcome State Fault Refusal :=
  issue .S 1 h (fun s =>
    let t := s.tile
    let m := map.toNat
    let w0 := t.progWord m
    let w1 := t.progWord (m + 1)
    if t.words ≤ m + 1 || bitAt w0 0 || fld w1 63 49 != 0 then illegal s
    else if t.preq.isSome && 0 < (s.die (dieOf s.tileId)).freeSlots then
      .done (s.onTile fun t => t.modChunk t.iw.seq fun c => { c with safept := some m })
    else .done s) s

/-! ### EXIT (R27, R320) -/

/-- The trap of a LAUNCH status code on an EXIT (R320). -/
def exitTrap (s : State) (code : Byte) (region : Nat) : Act :=
  match code.toNat with
  | 0x03 | 0x05 => .deferred causePrivilege s.tile.iw.raw s
  | 0x02 | 0x09 => .deferred causeBudget (BitVec.ofNat 64 region) s
  | _ => .deferred causeIllegal s.tile.iw.raw s

/-- Where a successor block lies: in the map of this device, or read from another device's frame (R126). -/
inductive BlockAt
  | here (pa : Nat)
  | read (l : List Word)

/-- The eight words of a block in a frame of another device; empty while they are being read (R126, R269, DESIGN CHOICE, log 14). -/
def pulledBlock (ga : Word) (p : BitVec 12) (k : BitVec 16) (slot : BitVec 10) (pa : Nat) (gen : Byte) : M (Except Bad BlockAt) := fun s =>
  let ctx := s.tile.ctxid
  let va := fld ga 51 0
  match s.pullWords ctx p k slot gen (wordsAround va pa [(pa, 64)]) with
  | (s, some (c, _)) => (.error (.deferred c ga), s)
  | (s, none) => (.ok (.read ((List.range 8).map fun i => BitVec.ofNat 64 (s.pulledRead ctx va pa (pa + 8 * i) 8))), s)

/-- The place of a successor block at a 64-bit address: the own slice or paged memory (R320). -/
def blockPlace (ga : Word) : M (Except Bad BlockAt) := do
  let s ← get
  let g := s.tileAgent s.tileId
  if fld ga 5 0 != 0 then return .error (.deferred causeMisalign ga)
  else
    match s.device g.who.ctx (fld ga 63 52) with
    | none => return .error (.deferred causeRouteBad ga)
    | some (.there ..) => return .error (.deferred causePagePerm ga)
    | some .here =>
      match spaceOf (fld ga 51 0) with
      | .flat sl off =>
        if s.virt g.part sl == some s.tileId && off + 64 ≤ sliceBytes then return .ok (.here (sliceBase s.tileId + off))
        else return .error (.deferred causePagePerm ga)
      | .paged =>
        match ← place g true ga 64 .rd anyFmt with
        | .error (.precise c v) => return .error (.deferred c v)
        | .error b => return .error b
        | .ok (.mem pa _) => return .ok (.here pa)
        | .ok (.phys p k slot pa gen _) => pulledBlock ga p k slot pa gen
        | .ok _ => return .error (.deferred causePagePerm ga)
      | _ => return .error (.deferred causePagePerm ga)

/-- Read a block as a 64-byte load: lines of this device enter the read set (R86, R320). -/
def State.readBlock (s : State) (p : BlockAt) (k : Block → State → Act) : Act :=
  match p with
  | .read l => k (blockOf l) s
  | .here pa =>
    s.consume pa 64 fun s =>
      let s := s.noteReads (lineKeys pa 64)
      k (blockOf ((List.range 8).map fun i => BitVec.ofNat 64 (s.coreRead (pa + 8 * i) 8))) s

/-- Read and check the blocks at the addresses `l`, the earlier ones in `done` (R320), then hold the successors to the
commit. -/
def exitBlocks (l : List Word) (done : List Succ) (s : State) : Act :=
  match l with
  | [] => .done (if done.isEmpty then s else s.holdEffect (.successors done))
  | ga :: r =>
    match blockPlace ga s with
    | (.error b, s) => b.act s
    | (.ok at_, s) =>
      if s.meetsHeld (s.span s.tile.ctxid ga 64) then .before
      else
        s.readBlock at_ fun b s =>
          if b.join then exitBlocks r (done ++ [⟨ga, b⟩]) s
          else
            let g := s.tileAgent s.tileId
            let held := s.reserved g.who.ctx ++ (done.filter fun y => !y.blk.join).map fun y => y.blk.region.toNat
            match checkBlock g s.tile.progbase (dieOf s.tileId) (.exit g.who.region.toNat) held b s with
            | (some (code, k), s) => exitTrap s code k
            | (none, s) => exitBlocks r (done ++ [⟨ga, b⟩]) s

/-- EXIT (R320): the blocks named by s[a] to s[a + n − 1]; the task ends at the commit (R321). -/
def execExit (h : Hdr) (a : SReg) (n : BitVec 3) (s : State) : Host.Outcome State Fault Refusal :=
  issue .S 1 h (actAttempt fun s => exitBlocks ((List.range n.toNat).map fun j => s.tile.regs.sreg (a.toNat + j)) [] s) s

/-! ### WAITE (R412 to R414) -/

/-- The die counter of the tile in turn. -/
def State.diecyc (s : State) : Word := (s.die (dieOf s.tileId)).cyc

/-- WAITE: WAKEPEND, or a deadline already passed, satisfies it at once; else the next S word waits for an event. -/
def execWaite (h : Hdr) (a : SReg) (mask : BitVec 3) (s : State) : Host.Outcome State Fault Refusal :=
  issue .S 1 h (fun s =>
    let t := s.tile
    if t.regs.wakepend then .done (s.onTile fun t => { t with regs := { t.regs with wakepend := false } })
    else if mask.getLsbD 0 && s.sr a ≤ s.diecyc then .done s
    else .done (s.onTile fun t => { t with
      waite := some (t.iw.seq, s.sr a, mask, Vector.ofFn fun i => t.tidst i.val), waited := false })) s

/-- Whether a selected event has occurred (R413). -/
def State.waiteOver (s : State) (t : Nat) : Bool :=
  let x := s.tileAt t
  match x.waite with
  | none => false
  | some (_, dl, m, w) =>
    x.waited || m.getLsbD 0 && dl ≤ (s.die (dieOf t)).cyc || m.getLsbD 1 && decide (w ≠ Vector.ofFn fun i => x.tidst i.val)

/-- WAITE_EVENT: the event that ends a wait occurs; the next S word issues no earlier than the next cycle (R413). -/
def execWaiteEvent (t : TileNo) (s : State) : Host.Outcome State Fault Refusal :=
  if s.waiteOver t.toNat then
    .next (s.modTile t.toNat fun x => { x with waite := none, waited := false, wake := true
                                               occ := { x.occ with s := max x.occ.s (s.now + 1) } })
  else .next s

/-! ### TRAP and RTE (R366, R380) -/

/-- TRAP raises USER with its code; it resumes after itself (R380). -/
def execTrap (h : Hdr) (code : BitVec 16) (s : State) : Host.Outcome State Fault Refusal :=
  issue .S 1 h (fun s =>
    .ended (.trap ⟨causeUser, s.tile.iw.idx, code.zeroExtend 64, s.tile.iw.idx + 1, false⟩)) s

/-- RTE restores the frame of the tile's slice; delivery resumes in the next cycle (R233, R366). -/
def execRte (h : Hdr) (s : State) : Host.Outcome State Fault Refusal :=
  stopWord h (fun s =>
    if !s.tile.regs.inh then illegal s
    else
      match readFrame s (sliceBase s.tileId + frameOff) s.tile.regs with
      | none => illegal s
      | some f => .done (s.onTile fun t => t.restoreFrame f (s.now + 1))) s

/-! ### Control registers (R78, R316, R317) -/

/-- A control register by its number (R78). -/
inductive Ctl
  | vshape | fpctl | taskflg | taskkey | sampth | accw (n : Nat) | psw (n : Nat) | tilexy | diecyc | tidst (n : Nat)
  | loopst | chkst | tcause | tepc | tval | thandler | tstat | ptroot | rgnbase | qbase | progbase | ctxid | partid | undstat
deriving DecidableEq, Repr

/-- The register of a number (R78). -/
def ctlOf (n : Nat) : Option Ctl :=
  match n with
  | 0x000 => some .vshape | 0x001 => some .fpctl | 0x002 => some .taskflg | 0x003 => some .taskkey | 0x004 => some .sampth
  | 0x008 => some (.accw 0) | 0x009 => some (.accw 1)
  | 0x00C => some (.psw 0) | 0x00D => some (.psw 1) | 0x00E => some (.psw 2) | 0x00F => some (.psw 3)
  | 0x010 => some .tilexy | 0x011 => some .diecyc
  | 0x014 => some (.tidst 0) | 0x015 => some (.tidst 1) | 0x016 => some (.tidst 2) | 0x017 => some (.tidst 3)
  | 0x018 => some .loopst | 0x019 => some .chkst
  | 0x040 => some .tcause | 0x041 => some .tepc | 0x042 => some .tval | 0x043 => some .thandler | 0x044 => some .tstat
  | 0x800 => some .ptroot | 0x801 => some .rgnbase | 0x802 => some .qbase | 0x803 => some .progbase | 0x804 => some .ctxid
  | 0x805 => some .partid | 0x809 => some .undstat
  | _ => none

/-- Registers that CTLWR may write. -/
def Ctl.writable : Ctl → Bool
  | .vshape | .fpctl | .taskkey | .sampth | .accw _ | .psw _ | .thandler | .ptroot | .rgnbase | .qbase | .progbase | .ctxid => true
  | _ => false

/-- Registers whose write stops fetch until it issues (R73). -/
def Ctl.captured : Ctl → Bool
  | .vshape | .fpctl | .taskkey | .sampth | .accw _ | .psw _ => true
  | _ => false

/-- Values that a write refuses (R65, R78, R124, R145, R220, R317). -/
def Ctl.refuses (c : Ctl) (v : Word) : Bool :=
  match c with
  | .vshape => shapeRefused v
  | .fpctl => fpctlRefused v
  | .sampth => sampthRefused v
  | .accw _ | .psw _ => windowRefused v
  | .thandler => fld v 63 13 != 0
  | .ptroot => fld v 63 44 != 0 || fld v 12 0 != 0
  | .ctxid => fld v 63 16 != 0
  | _ => false

/-- TILEXY (R78). -/
def State.tilexy (s : State) (t : Nat) : Word :=
  match s.place t with
  | none => 0
  | some (q, v) =>
    let w := s.partWidth q
    pack [(ceilDiv (s.partCount q) w % 256, 24), (w % 256, 16), (v / w % 256, 8), (v % w, 0)]

/-- The value of a register in the cycle of the word that issues (R316). -/
def State.ctlRead (s : State) (c : Ctl) : Word :=
  let t := s.tile
  match c with
  | .vshape => t.regs.vshape
  | .fpctl => t.regs.fpctl
  | .taskflg => zext64 t.taskflg
  | .taskkey => t.regs.taskkey
  | .sampth => t.regs.sampth
  | .accw n => vget t.regs.accw n
  | .psw n => vget t.regs.psw n
  | .tilexy => s.tilexy s.tileId
  | .diecyc => s.diecyc
  | .tidst n => zext64 (t.tidst n)
  | .loopst => pack ((List.range 3).map fun i => (flag (vget t.fetch.loops i).active, i))
  | .chkst => match t.chunkOf t.iw.seq with | some x => pack [(x.attempt, 0), (flag x.solo, 3)] | none => 0
  | .tcause => t.tcause
  | .tepc => t.tepc
  | .tval => t.tval
  | .thandler => t.regs.thandler
  | .tstat => pack [(flag t.priv, 0), (flag t.regs.inh, 1), (flag t.regs.wakepend, 2)]
  | .ptroot => t.ptroot
  | .rgnbase => t.rgnbase
  | .qbase => t.qbase
  | .progbase => t.progbase
  | .ctxid => zext64 t.ctxid
  | .partid => BitVec.ofNat 64 (((s.place s.tileId).map (·.1)).getD 0)
  | .undstat => zext64 t.undstat

/-- Write a register below 0x800 at issue; flags that landed in this cycle are ORed in after a write of FPCTL (R147,
R317). -/
def Regs.ctlWrite (x : Regs) (c : Ctl) (v : Word) (late : FFlags) : Regs :=
  match c with
  | .vshape => { x with vshape := v }
  | .fpctl => { x with fpctl := orFlags v late }
  | .taskkey => { x with taskkey := v }
  | .sampth => { x with sampth := v }
  | .accw n => { x with accw := vset x.accw n v }
  | .psw n => { x with psw := vset x.psw n v }
  | .thandler => { x with thandler := v }
  | _ => x

/-- Write a register from 0x800 up, at the commit (R94, R317). -/
def Tile.ctlCommit (t : Tile) (num : Nat) (v : Word) : Tile :=
  match num with
  | 0x800 => { t with ptroot := v }
  | 0x801 => { t with rgnbase := v }
  | 0x802 => { t with qbase := v }
  | 0x803 => { t with progbase := v }
  | 0x804 => { t with ctxid := BitVec.ofNat 16 v.toNat }
  | _ => t

/-- CTLRD: the value lands two cycles after issue (R316). -/
def execCtlrd (h : Hdr) (d : SReg) (num : BitVec 12) (s : State) : Host.Outcome State Fault Refusal :=
  issue .S 1 h (fun s =>
    if 0x800 ≤ num.toNat && !s.tile.priv then privilege s
    else
      match ctlOf num.toNat with
      | none => illegal s
      | some c => .done (s.result h 1 2 (.sreg d (s.ctlRead c)) 0)) s

/-- CTLWR (R316, R317). -/
def execCtlwr (h : Hdr) (a : SReg) (num : BitVec 12) (s : State) : Host.Outcome State Fault Refusal :=
  let stops := match ctlOf num.toNat with | some c => c.captured | none => false
  issue .S 1 h (fun s =>
    let v := s.sr a
    if 0x800 ≤ num.toNat && !s.tile.priv then privilege s
    else
      match ctlOf num.toNat with
      | none => illegal s
      | some c =>
        if !c.writable || c.refuses v then illegal s
        else if 0x800 ≤ num.toNat then .done (s.holdEffect (.ctl num v))
        else
          let late := if s.tile.landFlags.1 == s.now then s.tile.landFlags.2 else 0
          .done (s.onTile fun t => { t with regs := t.regs.ctlWrite c v late })) (if stops then s.resumeFetch else s)

end Sys2Proof.Machine
end

