-- ==== Sys2Proof/Machine/LdSt.lean ====
section
/-! DEFINITION. Scalar loads and stores, full/empty words and waits (R102 to R105, R109 to R114, R119 to R123, R319, R322,
R328 to R330, R358, R372 to R375, R377). -/

namespace Sys2Proof

/-- Bytes of an access size (R328). -/
def Size.bytes : Size → Nat
  | .b => 1 | .h => 2 | .w => 4 | .d => 8

end Sys2Proof

namespace Sys2Proof.Machine
open Sys2Proof

/-- The address of a scalar access (R328). -/
def State.ea (s : State) (a b : SReg) (disp : BitVec 19) : Word := s.sr a + s.sr b + sext64 disp

/-- Whether a 64-bit address is a control window, of whichever device (R101, R104). -/
def isWindow (ga : Word) : Bool := match spaceOf (fld ga 51 0) with | .window _ => true | _ => false

/-- Whether a 64-bit address is flat SRAM of this device. -/
def State.isFlatHere (s : State) (ga : Word) : Bool :=
  match s.device s.tile.ctxid (fld ga 63 52), spaceOf (fld ga 51 0) with
  | some .here, .flat .. => true
  | _, _ => false

/-- Whether the chunk of the word that issues holds a window store: a window load comes after it (R104). -/
def State.heldWindow (s : State) : Bool :=
  match s.tile.chunkOf s.tile.iw.seq with
  | some c => c.effects.any fun e => match e.2 with | .window .. => true | _ => false
  | none => false

/-- An interlocked result of the word that issues is on its way (R75); the latency beyond one cycle is free (DESIGN CHOICE, log 7). -/
def State.pushLoadF (s : State) (d : Dest) (req : Option Nat) (f : FFlags) : State :=
  let s := s.tick
  s.onTile fun t => { t with loads := t.loads ++ [⟨t.iw.seq, t.iw.idx, d, s.now + 8 + (Config.latency s.free).toNat, req, f⟩] }

/-- The same with no flags. -/
def State.pushLoad (s : State) (d : Dest) (req : Option Nat) : State := s.pushLoadF d req 0

/-- Whether a tile may send `n` more requests (R267). (DESIGN CHOICE, log 54) -/
def State.roomRemote (s : State) (n : Nat) : Bool := s.tile.remote.length + n ≤ 64
/-- The same of any tile. -/
def State.roomAt (s : State) (t : Nat) : Bool := (s.tileAt t).remote.length < 64

/-- Extend a loaded value of n bytes (R328). -/
def extend (sx : Bool) (n x : Nat) : Word := if sx then sextBytes n x else BitVec.ofNat 64 x

/-- The first failures of a scalar access at issue (R329, R373). -/
def accessChecks (ga : Word) (n : Nat) (k : State → Act) (s : State) : Act :=
  let win := isWindow ga
  if ga.toNat % n != 0 || win && n != 8 then .trap causeMisalign ga
  else if win && !s.tile.priv then privilege s
  else k s

/-- A remote load of the word that issues (R123, R264). -/
def remoteLoad (p : Place) (ga : Word) (d : SReg) (sx : Bool) (n : Nat) (s : State) : Act :=
  match p.request kLoad (sizeCode n) ga 0 0 [] with
  | none => .trap causePagePerm ga
  | some q =>
    if !s.roomRemote 1 then .retry
    else
    let id := s.tile.srcSeq.toNat
    match s.request s.tileId q (.scalar d sx n) s.tile.iw.seq 0 s.tile.iw.idx with
    | (s, some c) => .deferred c ga s
    | (s, none) => .done (s.pushLoad (.sreg d 0) (some id))

/-- LD of n bytes at `ga` (R328, R329): its value is taken now, at the home (R105). -/
def loadAct (h : Hdr) (ga : Word) (d : SReg) (sx : Bool) (n : Nat) (s : State) : Act :=
  accessChecks ga n (fun s =>
    match place (s.tileAgent s.tileId) true ga n .rd anyFmt s with
    | (.error (.precise c v), _) => .trap c v
    | (r, s1) =>
      if s.meetsHeld (s.span s.tile.ctxid ga n) then .before
      else
        match r with
        | .error b => b.act s1
        | .ok (.mem pa _) =>
          s1.consume pa n fun s =>
            let s := s.noteReads (lineKeys pa n)
            let v := extend sx n (s.coreRead pa n)
            if isSlice pa && sliceTile pa == s.tileId then .done (s.result h 1 5 (.sreg d v) 0)
            else .done (s.pushLoad (.sreg d v) none)
        | .ok (.window off) => if s1.heldWindow then .before else .done (s1.pushLoad (.sreg d (s1.windowRead off)) none)
        | .ok p => remoteLoad p ga d sx n s1) s

/-- LD (R328). -/
def execLd (h : Hdr) (d a b : SReg) (sz : Size) (sx : Bool) (disp : BitVec 19) (s : State) :
    Host.Outcome State Fault Refusal :=
  issue .A 1 h (fun s => loadAct h (s.ea a b disp) d sx sz.bytes s) s

/-! ### Stores -/

/-- Bytes as whole-byte cells from an address on. -/
def cellsAt (pa : Nat) (l : List Byte) : List (Nat × Byte × Byte) :=
  (List.range l.length).map fun i => (pa + i, 0xFF, l.getD i 0)

/-- A buffered store of the word that issues at a place of the map (R86, R91, R93). -/
def State.storeAt (s : State) (ga : Word) (pa : Nat) (leaf : Option Leaf) (cells : List (Nat × Byte × Byte)) (n : Nat) : Store × Bool :=
  let g := s.tile.ident s.tileId
  let own := isSlice pa && sliceTile pa == s.tileId
  let priv_ := match leaf with | some l => l.isPrivate | none => false
  ({ range := s.span g.ctx ga n, cells := cells, gen := leaf.map (·.gen), node := none, tile := s.tileId, ctx := g.ctx,
     region := g.region, seqNo := 0, commitNo := 0, notBefore := 0, redirected := false, upset := false }, !own && !priv_)

/-- ST of n bytes (R372, R373): the bytes are buffered to the commit. -/
def storeAct (ga : Word) (v : Word) (n : Nat) (s : State) : Act :=
  accessChecks ga n (fun s =>
    match place (s.tileAgent s.tileId) true ga n .wr anyFmt s with
    | (.error (.precise c v), _) => .trap c v
    | (r, s1) =>
      if s.meetsHeld (s.span s.tile.ctxid ga n) then .before
      else
        match r with
        | .error b => b.act s1
        | .ok (.mem pa leaf) =>
          let (st, sh) := s1.storeAt ga pa leaf (cellsAt pa (toBytes n v.toNat)) n
          s1.bufferStore (lineKeys pa n) sh [st]
        | .ok (.window off) => .done (s1.holdEffect (.window off v))
        | .ok p =>
          match p.request kStore (sizeCode n) ga v 0 (toBytes n v.toNat) with
          | some q => .done (s1.holdEffect (.remote q))
          | none => .trap causePagePerm ga) s

/-- ST (R372). -/
def execSt (h : Hdr) (data a b : SReg) (sz : Size) (disp : BitVec 19) (s : State) : Host.Outcome State Fault Refusal :=
  issue .A 1 h (fun s => storeAct (s.ea a b disp) (s.sr data) sz.bytes s) s

/-- PREF is a hint whose effects change only timing: here it has none (R358). -/
def execPref (h : Hdr) (_a _b : SReg) (_disp : BitVec 19) (s : State) : Host.Outcome State Fault Refusal :=
  issue .A 1 h .done s

/-! ### Full/empty words at issue (R330, R374) -/

/-- The word of a full/empty access: MISALIGN, then PAGE_PERM for anything but flat SRAM of this device within its bounds
(R102, R330). -/
def fullEmptyAct (ga : Word) (k : Nat → State → Act) (s : State) : Act :=
  if ga.toNat % 8 != 0 then .trap causeMisalign ga
  else if !s.isFlatHere ga then .trap causePagePerm ga
  else
    match place (s.tileAgent s.tileId) true ga 8 .atomic anyFmt s with
    | (.ok (.mem pa _), s) => k pa s
    | (.error (.precise c v), _) => .trap c v
    | _ => .trap causePagePerm ga

/-- LDS (R330). -/
def execLds (h : Hdr) (d a b : SReg) (disp : BitVec 19) (s : State) : Host.Outcome State Fault Refusal :=
  issue .A 1 h (fun s => fullEmptyAct (s.ea a b disp) (fun pa s => .done (s.boundary (.lds d pa))) s) s

/-- STF (R374): s[data] is read at issue. -/
def execStf (h : Hdr) (data a b : SReg) (disp : BitVec 19) (s : State) : Host.Outcome State Fault Refusal :=
  issue .A 1 h (fun s => fullEmptyAct (s.ea a b disp) (fun pa s => .done (s.boundary (.stf pa (s.sr data)))) s) s

/-- STE (R374). -/
def execSte (h : Hdr) (a b : SReg) (disp : BitVec 19) (s : State) : Host.Outcome State Fault Refusal :=
  issue .A 1 h (fun s => fullEmptyAct (s.ea a b disp) (fun pa s => .done (s.boundary (.ste pa))) s) s

/-- FENCE (R322). -/
def execFence (h : Hdr) (sc : Scope) (s : State) : Host.Outcome State Fault Refusal :=
  issue .A 1 h (fun s => .done (s.boundary (.fence sc))) s

/-- DRAIN (R319). -/
def execDrain (h : Hdr) (p : DPath) (s : State) : Host.Outcome State Fault Refusal :=
  issue .A 1 h (fun s => .done (s.boundary (.drain p))) s

/-- TIDW (R377): the identifier is read when it is performed. -/
def execTidw (h : Hdr) (a : SReg) (ch : BitVec 2) (s : State) : Host.Outcome State Fault Refusal :=
  issue .A 1 h (fun s => .done (s.boundary (.tidw a ch))) s

/-! ### Boundary words when performed (R82, R226) -/

/-- Waits that a save withdraws, and whose end is a wake message (R114, R237, R242). -/
def BOp.withdrawable : BOp → Bool
  | .lds .. | .stf .. | .drain _ | .tidw .. | .fence _ => true
  | _ => false

/-- The boundary word of a tile has been performed; a returned value lands under the interlock (R75, R82). -/
def State.finishBnd (s : State) (t : Nat) (v : Option (SReg × Word)) : State :=
  s.modTile t fun x =>
    match x.bnd with
    | none => x
    | some b =>
      let x := { x with bnd := none, wake := x.wake || b.op.withdrawable }
      match v with
      | some (d, w) => { x with loads := x.loads ++ [⟨b.seq, b.idx, .sreg d w, s.now, none, 0⟩] }
      | none => x

/-- A boundary word fails when it is performed: the chunks that followed are squashed, TEPC is the word, RPC the older's
one's first word (R226). -/
def State.bndFault (s : State) (t : Nat) (cause : Byte) (tval : Word) : State :=
  s.modTile t fun x =>
    match x.bnd with
    | none => x
    | some b =>
      let x := x.squash s.now x.older.isSome false none
      { x with bnd := none, cur := none, fstop := true, queue := [], stir := true
               trap := some ⟨cause, b.idx, tval, x.fetch.pc, false⟩ }

/-- A boundary word meets PARK when it is performed: the chunks that followed are squashed, and the task parks and resumes at the word
(R128). -/
def State.bndPark (s : State) (t : Nat) (page : BitVec 36) : State :=
  s.modTile t fun x =>
    match x.bnd with
    | none => x
    | some b =>
      let x := x.squash s.now x.older.isSome false none
      { x with bnd := none, cur := none, fstop := true, queue := [], fetch := b.before, saving := some (.park page false) }

/-- Where a tile's full/empty operation stands: its word, and the commit that released it (R113). -/
def Tile.fullEmpty (x : Tile) : Option (Nat × Bool × Nat) :=
  match x.bnd with
  | some b =>
    match b.op, b.commitNo with
    | .lds _ pa, some n => some (pa, true, n)
    | .stf pa _, some n => some (pa, false, n)
    | _, _ => none
  | none => none

/-- Whether a tile's operation is the head of its queue at the word (R113). -/
def State.headOf (s : State) (t : Nat) : Bool :=
  match (s.tileAt t).fullEmpty with
  | none => false
  | some (pa, l, n) => s.tiles.all fun u =>
      match (s.tileAt u).fullEmpty with
      | some (p2, l2, n2) => !(p2 == pa && l2 == l && n2 < n)
      | none => true

/-- LDS_PERFORM: a full word is read and emptied in one step (R113, R330). -/
def execLdsPerform (t : TileNo) (s : State) : Host.Outcome State Fault Refusal :=
  let n := t.toNat
  match (s.tileAt n).bnd with
  | some b =>
    match b.op with
    | .lds d pa =>
      if b.commitNo.isSome && s.headOf n && s.isFull pa then
        let (s, bad) := s.sense pa 8
        if bad then .next (s.bndFault n causePoisonData (BitVec.ofNat 64 (pa / 64 * 64)))
        else .next ((s.finishBnd n (some (d, s.home64 pa))).setFull pa false)
      else .next s
    | _ => .next s
  | none => .next s

/-- STF_PERFORM: an empty word is stored and marked full in one step (R113, R374, R375). -/
def execStfPerform (t : TileNo) (s : State) : Host.Outcome State Fault Refusal :=
  let n := t.toNat
  match (s.tileAt n).bnd with
  | some b =>
    match b.op with
    | .stf pa v =>
      if b.commitNo.isSome && s.headOf n && !s.isFull pa then
        let (s, bad) := s.sense pa 8
        if bad then .next (s.bndFault n causePoisonData (BitVec.ofNat 64 (pa / 64 * 64)))
        else .next (((s.finishBnd n none).homeWrite64 pa v).setFull pa true)
      else .next s
    | _ => .next s
  | none => .next s

/-- The path of a paged page: by its leaf; where it has none yet, by the pool from which the copy takes its frame (R120, R128). -/
def State.pagePath (s : State) (g : Agent) (va : Nat) : List DPath :=
  match (s.walk g.die (s.partCount g.part) g.who.root va).2 with
  | .leaf w0 w1 lvl _ =>
    let l : Leaf := ⟨w0, w1, lvl == 1⟩
    if s.leafAway g l then [.remote] else if isNear (l.pa va) then [.near] else [.far]
  | .absent w0 _ _ _ =>
    let x := s.die g.die
    if !bitAt w0 3 || x.kvpoolcnt == 0 then []
    else if isNear (s.home64 (x.kvpoolbase.toNat + (x.kvpoolcnt.toNat - 1) * 8)).toNat then [.near] else [.far]
  | .fault _ => []

/-- The paths on which a copy's destination lies: sram, near, far, remote (R120). -/
def State.copyPaths (s : State) (c : Cmd) : List DPath :=
  c.wr.flatMap fun r =>
    match r.dev with
    | some _ => [.remote]
    | none =>
      if r.lo < 0x80000000 then [.sram]
      else
        (List.range (r.hi / 0x10000 - r.lo / 0x10000 + 1)).flatMap fun i =>
          s.pagePath (s.identAgent c.who) (max r.lo ((r.lo / 0x10000 + i) * 0x10000))

/-- Whether every copy released from the chunks up to word number `seq` with a destination on the path has completed
(R120). -/
def State.drained (s : State) (t seq : Nat) (p : DPath) : Bool :=
  (s.tileAt t).activeCmds.all fun c => !(c.op.isCopy && c.seq ≤ seq && (s.copyPaths c).contains p)

/-- Whether the items of a FENCE scope are done (R122, R322). -/
def State.fenced (s : State) (t seq : Nat) (sc : Scope) : Bool :=
  let x := s.tileAt t
  let engine := (x.activeCmds.all fun c => seq < c.seq) && x.drains.isEmpty && s.far.all fun f => f.tile != some t
  match sc with
  | .engine => engine
  | .remote =>
    x.unsent.isEmpty && (x.remote.all fun r => match r.fin with | .ack => false | _ => true) && s.drained t seq .remote
      && s.far.all fun f => f.tile != some t || (match f.kind with | .nvloss _ | .nback .. => false | _ => true)
  | .host => engine && s.wb.all fun w => w.tile != t

/-- The register value a TIDW reads once every result of its chunk has landed (R377). -/
def Tile.chunkEndReg (x : Tile) (seq : Nat) (a : SReg) : Word :=
  match x.cur with
  | some c =>
    match c.start with
    | some st =>
      let l := sortBy (fun a b : Landing => a.cyc < b.cyc || a.cyc == b.cyc && a.seq < b.seq) (st.inflight.filter fun l => l.seq ≤ seq)
      (l.foldl (fun r l => r.land l.dest l.flags) st.regs).sreg a.toNat
    | none => x.regs.sreg a.toNat
  | none => x.regs.sreg a.toNat

/-- Whether the wait of a tile's boundary word is over (R120 to R122). -/
def State.waitOver (s : State) (t : Nat) : Bool :=
  let x := s.tileAt t
  match x.bnd with
  | some b =>
    b.commitNo.isSome &&
    match b.op with
    | .fence sc => s.fenced t b.seq sc
    | .drain p => s.drained t b.seq p
    | .tidw a ch => precedes48 (BitVec.ofNat 48 (x.chunkEndReg b.seq a).toNat) (x.tidst ch.toNat)
    | _ => false
  | none => false

/-- FENCE_WAIT_SATISFIED (R122, R322). -/
def execFenceWaitSatisfied (t : TileNo) (s : State) : Host.Outcome State Fault Refusal :=
  match (s.tileAt t.toNat).bnd with
  | some b =>
    match b.op with
    | .fence _ => .next (if s.waitOver t.toNat then s.finishBnd t.toNat none else s)
    | _ => .next s
  | none => .next s

/-- DRAIN_WAIT_SATISFIED (R120, R319). -/
def execDrainWaitSatisfied (t : TileNo) (s : State) : Host.Outcome State Fault Refusal :=
  match (s.tileAt t.toNat).bnd with
  | some b =>
    match b.op with
    | .drain _ => .next (if s.waitOver t.toNat then s.finishBnd t.toNat none else s)
    | _ => .next s
  | none => .next s

/-- TIDW_WAIT_SATISFIED (R121, R377). -/
def execTidwWaitSatisfied (t : TileNo) (s : State) : Host.Outcome State Fault Refusal :=
  match (s.tileAt t.toNat).bnd with
  | some b =>
    match b.op with
    | .tidw .. => .next (if s.waitOver t.toNat then s.finishBnd t.toNat none else s)
    | _ => .next s
  | none => .next s

/-! ### Landings of core results (R74, R75) -/

/-- Hold an asynchronous event: eight engine faults at most, the next being lost (R227). -/
def Tile.raiseAsync (x : Tile) (e : AsyncEv) : Tile :=
  if e.engine && 8 ≤ (x.async.filter (·.engine)).length then { x with lost := true } else { x with async := x.async ++ [e], stir := true }

/-- OR flags that land in cycle `c` into FPCTL's record of that cycle (R147). -/
def Tile.noteFlags (x : Tile) (c : Nat) (f : FFlags) : Tile :=
  { x with landFlags := if x.landFlags.1 == c then (c, x.landFlags.2 ||| f) else (c, f) }

/-- A vector register that a command of an open window has read is written: its replay could not read it again (R193). -/
def Tile.spoil (x : Tile) (d : Dest) : Tile :=
  match d with
  | .vec r _ _ => { x with windows := x.windows.map fun w => w.map fun (w : Window) => { w with dirty := w.dirty || w.regs.contains r.toNat } }
  | _ => x

/-- RESULT_LANDING: the earliest result due lands (R74); two of one cycle land in program order. -/
def execResultLanding (t : TileNo) (s : State) : Host.Outcome State Fault Refusal :=
  .next (s.modTile t.toNat fun x =>
    match bestBy (fun a b : Landing => a.cyc < b.cyc || a.cyc == b.cyc && a.seq < b.seq) (x.inflight.filter fun l => l.cyc ≤ s.now) with
    | none => x
    | some l =>
      (({ x with regs := x.regs.land l.dest l.flags, inflight := x.inflight.erase l } : Tile).spoil l.dest).noteFlags s.now l.flags)

/-- Whether a result of fixed latency from an earlier word is still bound for the register of an interlocked one (R75). -/
def Tile.fixedBefore (x : Tile) (l : Load) : Bool :=
  (x.inflight ++ x.votes.map (·.a)).any fun f => decide (f.seq < l.seq) && match f.dest, l.dest with
    | .sreg a _, .sreg b _ => a == b
    | .pred a _, .pred b _ => a == b
    | .vec a _ _, .vec b _ _ => a == b
    | _, _ => false

/-- The first interlocked result that may land in cycle `c`. -/
def Tile.landable (x : Tile) (c : Nat) : Option (Load × List Load) :=
  takeFirst (fun l => l.ready ≤ c && l.req.isNone && !x.fixedBefore l) x.loads

/-- An interlocked value lands with its flags (R75, R147). -/
def Tile.landLoad (x : Tile) (c : Nat) (l : Load) : Tile := ((x.landVar l.seq l.dest l.flags).spoil l.dest).noteFlags c l.flags

/-- LOAD_VALUE_LANDS: the value of a load, or of a drain 16 tc after the engine, lands and its pending mark is released (R75,
R182); with the last register of a drain comes the exception that its flags raise (R152). -/
def execLoadValueLands (t : TileNo) (s : State) : Host.Outcome State Fault Refusal :=
  .next (s.modTile t.toNat fun x =>
    match x.landable s.now with
    | some (l, r) => ({ x with loads := r } : Tile).landLoad s.now l
    | none =>
      match takeFirst (fun d : Load × Option AsyncEv => d.1.ready ≤ s.now) x.drains with
      | none => x
      | some ((l, e), r) =>
        let y := ({ x with drains := r } : Tile).landLoad s.now l
        match e with
        | some e => y.raiseAsync e
        | none => y)

end Sys2Proof.Machine
end

