-- ==== Sys2Proof/Machine/Home.lean ====
section
/-! DEFINITION. An access as its home answers it (R139), failures that arrive after an operation has left its tile (R227,
R252, R270), and read-modify-write at the home (R117, R118, R302, R309). -/

namespace Sys2Proof.Machine
open Sys2Proof

/-! ### The home's answer (R139) -/

/-- What becomes of a store or atomic at its home: applied at an address, dropped as STALE, answered RETRY, or sent on to
a new home on another device with its physical address and generation. -/
inductive HomeRes
  | apply (pa : Nat) (s : State)
  | stale (s : State)
  | wait
  | away (ndev : BitVec 12) (pa : Nat) (gen : Byte) (s : State)

/-- Whether a source tile has an earlier store or far operation to the frame of `pa` that is still unanswered. -/
def State.earlierTo (s : State) (t : Nat) (seq : BitVec 32) (pa : Nat) : Bool :=
  let f := pa / 0x10000
  s.wb.any (fun w => w.tile == t && seqBefore w.seqNo seq && w.touches (f * 0x10000) 0x10000)
    || s.far.any fun x => x.who.tile == t && seqBefore x.seqNo seq && (match x.kind with | .red .. => x.home / 0x10000 == f | _ => false)

/-- The migration of which `pa` lies in the old frame, or in the new one. -/
def State.migOf (s : State) (old : Bool) (pa : Nat) : Option (Nat × Migration) :=
  (List.range 4).findSome? fun d => match (s.die d).mig with
    | some m =>
      let hit := if old then m.old == pa / 0x10000 * 0x10000 && m.oldState == 1
        else m.new == pa / 0x10000 * 0x10000 && m.ndev == 0xFFF && (m.newState == 2 || m.newState == 3)
      if hit then some (d, m) else none
    | none => none

/-- Change the migration of a die. -/
def State.modMig (s : State) (d : Nat) (f : Migration → Migration) : State := s.modDie d fun x => { x with mig := x.mig.map f }

/-- A redirected access at a new home on this device: applied once, in the order of its source's sequence numbers, while
the frame is FILLING (R139). -/
def State.arriveNew (s : State) (src : Nat) (seq : BitVec 32) (pa : Nat) : HomeRes :=
  match fld (s.home64 (s.frameRec pa)) 31 28 with
  | 2 => .wait
  | _ =>
    match s.migOf false pa with
    | none => .apply pa s
    | some (d, _) => .apply pa (s.modMig d fun m => { m with applied := Assoc.put src seq m.applied })

/-- A store or atomic of the source `src` (a tile, or 0x200 + device) arrives at the home of `pa` (R139).  Accesses without
a generation meet no migration. -/
def State.arriveHome (s : State) (src : Nat) (seq : BitVec 32) (pa : Nat) (gen : Option Byte) (redirected : Bool) : HomeRes :=
  match gen with
  | none => .apply pa s
  | some g =>
    match s.homeAnswer pa g redirected with
    | .apply => if redirected then s.arriveNew src seq pa else .apply pa s
    | .stale => .stale (s.modDie (homeDie pa) fun x => { x with stale := true })
    | .again => .wait
    | .redirect p ng nd =>
      if s.earlierTo src seq pa then .wait
      else
        let s := match s.migOf true pa with
          | some (d, _) => s.modMig d fun m => { m with sources := insertNat src m.sources }
          | none => s
        if nd == 0xFFF then s.arriveNew src seq p else .away nd p ng s

/-! ### Failures of operations that have left their tile -/

/-- POISON_DATA on an operation of `who` after it has left: raised on the issuing task, or unpinned where that has ended
(R227, R252, R360). -/
def State.poisonLate (s : State) (who : Ident) (task : Option Nat) (pa : Nat) : State :=
  let line := BitVec.ofNat 64 (pa / 64 * 64)
  match task with
  | some t => s.modTile t fun x => x.raiseAsync ⟨causePoisonData, line, false⟩
  | none => (unpinned (s.identAgent who) who.region.toNat line s).2

/-- A failure of what has left for another device, with no task to raise it on: LASTFAIL and LOSTOPS (R270). -/
def State.lostOp (s : State) (ga : Word) : State := s.modHost fun h => { h with lastfail := ga, lostops := satInc h.lostops }

/-- Report a failed operation that has left its tile (R270, R420): a fence or drain of the remote path that it was the
last to hold up meets the fault itself. -/
def State.reportLate (s : State) (task : Option Nat) (cause : Byte) (ga : Word) : State :=
  match task with
  | none => s.lostOp ga
  | some t =>
    let remoteWait := match (s.tileAt t).bnd with
      | some b => (match b.op with | .fence .remote => true | .drain .remote => true | _ => false) && s.waitOver t
      | none => false
    if remoteWait then
      s.modTile t fun x =>
        match x.bnd with
        | none => x
        | some _ =>
          let x := x.squash s.now x.older.isSome false none
          { x with bnd := none, cur := none, fstop := true, queue := [], wake := true
                   trap := some ⟨cause, x.fetch.pc, ga, x.fetch.pc, false⟩ }
    else s.modTile t fun x => x.raiseAsync ⟨cause, ga, false⟩

/-- Send the waiting stores and far operations of a tile's committed chunks while fewer than 64 requests are unanswered (R94,
R267); a failure at the source router is reported (R420). -/
def State.pump (t : Nat) : Nat → State → State
  | 0, s => s
  | k + 1, s =>
    let x := s.tileAt t
    match x.unsent with
    | [] => s
    | (idx, q) :: r =>
      if 64 ≤ x.remote.length then s
      else
        let s := s.modTile t fun x => { x with unsent := r }
        match s.request t q (if x.task.isSome then .ack else .lost) 0 0 idx with
        | (s, some c) => State.pump t k (s.reportLate (if x.task.isSome then some t else none) c q.ga)
        | (s, none) => State.pump t k s

/-- Requests of a tile leave behind those that wait already (R94, R267). -/
def State.leave (s : State) (t : Nat) (l : List (Nat × Request)) : State :=
  let s := s.modTile t fun x => { x with unsent := x.unsent ++ l }
  State.pump t (s.tileAt t).unsent.length s

/-! ### The owner and the ranges that it alone writes (R278, R279, R283) -/

/-- Offset of OWNER and of OWNERBRK in the windows (R281, R422). -/
def ownerOff : Nat := 0x40000030
def ownerBrkOff : Nat := 0x40000038

/-- A compare-and-swap on OWNER: every other claimant reads the winner's value (R277). -/
def State.ownerSwap (s : State) (expect v : Word) : State × Word :=
  let old := s.host.owner
  (if old == expect then s.modHost fun x => { x with owner := v } else s, old)

/-! ### Fields that hardware maintains (R3, R35, R40, R283) -/

/-- Of the byte at offset `o` of an RCB, the bits that a write leaves as they are, and those that a 1 clears: the use fields, and
STATUS (R3, R35). -/
def rcbHeld (o : Nat) : Byte × Byte := if 0x30 ≤ o && o < 0x48 then (0xFF, 0) else if o == 0x48 then (0, 0x0F) else (0, 0)

/-- The same of a queue descriptor: RDIDX to ERRCNT (R3, R40). -/
def qdHeld (o : Nat) : Byte × Byte := if 0x18 ≤ o && o < 0x38 then (0xFF, 0) else (0, 0)

/-- The local addresses in [lo, hi) by which a context reaches a byte of the map. -/
def State.vasAt (s : State) (g : Agent) (lo hi a : Nat) : List Nat :=
  let flat := match s.flatVa g.part a with | some va => [va] | none => []
  let paged := ((s.leaves g lo hi).filter fun x => !s.leafAway g x.2).filterMap fun x =>
    let pb := x.2.pa x.1
    if pb ≤ a && a < pb + x.2.size then some (x.1 + (a - pb)) else none
  (flat ++ paged).filter fun va => lo ≤ va && va < hi

/-- Whether an RCB is maintained by hardware: its STATE is not FREE, and its chain of parents ends at a root (R35). -/
def State.rcbLive (s : State) (g : Agent) (r : Nat) : Bool := match (rootFrom g (2 ^ 32) [] r s).1 with | some (some _) => true | _ => false

/-- Whether a descriptor is in use: QSTATE is 1 or 2 and it passes the checks of R40. -/
def State.descLive (s : State) (g : Agent) (q : Nat) : Bool :=
  match (s.agentReads g (qdAddr g.who.qbase q 0) 8).2 with
  | .ok w => (match descOf w with | some d => d.state == 1 || d.state == 2 | none => false)
  | .error _ => false

/-- What hardware maintains of a byte of the map: an RO field's bits, and a W1C field's, of the RCBs and descriptors of the VALID contexts
and of the tenant records (R3, R35, R40, R283). (DEDUCED, log 105) -/
def State.heldBits (s : State) (a : Nat) : Byte × Byte :=
  let t := s.host.tenbase.toNat
  if t != 0 && t ≤ a && a < t + 0x800000 && 0x30 ≤ (a - t) % 128 && (a - t) % 128 < 0x38 then (0xFF, 0)
  else
    ((s.validCtxs.findSome? fun c =>
      let g := s.agent 0 c
      let b := g.who.rgnbase.toNat
      let q := g.who.qbase.toNat
      let hr := rcbHeld ((a + 256 - b % 256) % 256)
      let hq := qdHeld ((a + 64 - q % 64) % 64)
      if hr != (0, 0) && (s.vasAt g b (b + 2 ^ 40) a).any fun va => s.rcbLive g ((va - b) / 256) then some hr
      else if hq != (0, 0) && (s.vasAt g q (q + 0x400000) a).any fun va => s.descLive g ((va - q) / 64) then some hq
      else none).getD (0, 0))

/-- A masked cell without the bits that hardware maintains: RO bits stay, and a 1 clears a W1C bit (R3). -/
def heldCell (h : Byte × Byte) (c : Nat × Byte × Byte) : Nat × Byte × Byte :=
  (c.1, (c.2.1 &&& ~~~h.1 &&& ~~~h.2) ||| (c.2.1 &&& c.2.2 &&& h.2), c.2.2 &&& ~~~h.2)

/-- Whether the homes do not simply take a write to an address: it lies in a range of the owner, or hardware maintains it (R3, R279). -/
def State.guarded (s : State) (a : Nat) : Bool := s.ownRange a || s.heldBits a != (0, 0)

/-- The context whose MEAS or TENANTID lies at an address (R283). -/
def State.measAt (s : State) (a : Nat) : Option (BitVec 16) :=
  let t := s.host.tenbase.toNat
  let o := (a - t) % 128
  if t != 0 && t ≤ a && a < t + 0x800000 && (o < 0x30 || 0x40 ≤ o && o < 0x48) then some (BitVec.ofNat 16 ((a - t) / 128)) else none

/-- Whether the homes refuse a write to an address: not the owner's, or to MEAS or TENANTID of a context with an ACTIVE
region (R279, R283). -/
def State.measLocked (s : State) (a : Nat) : Bool :=
  match s.measAt a with
  | some c => !(regionsIn (s.agent 0 c) 1 s).1.isEmpty
  | none => false

/-- What the homes let through of the cells of a write, and what they record of the rest (R279, R283): the owner's ranges, then MEAS and
TENANTID, then the fields that hardware maintains (R3). -/
def State.letThrough (s : State) (w : By) (l : List (Nat × Byte × Byte)) : List (Nat × Byte × Byte) × State :=
  if !l.any fun c => s.guarded c.1 then (l, s)
  else
    let mine := s.host.isOwner w.kind w.dev
    let lock := fun (s : State) => if l.any fun c => s.measLocked c.1 then s.modHost fun x => { x with measlock := true } else s
    let refuse := fun (s : State) => if !mine && l.any fun c => s.ownRange c.1 then s.refuse else s
    (((l.filter fun c => mine || !s.ownRange c.1).filter fun c => !s.measLocked c.1).map fun c => heldCell (s.heldBits c.1) c, lock (refuse s))

/-- Write masked cells at their homes, after every committed store (R93). -/
def State.writeCells (s : State) (l : List (Nat × Byte × Byte)) : State :=
  l.foldl (fun s c => s.homeWrite c.1 [(BitVec.ofNat 8 (s.home c.1 1) &&& ~~~c.2.1) ||| (c.2.2 &&& c.2.1)]) s

/-- A write that the homes guard. -/
def State.guardWrite (s : State) (w : By) (pa : Nat) (l : List Byte) : State :=
  if (List.range l.length).any fun i => s.guarded (pa + i) then
    let (c, s) := s.letThrough w (cellsAt pa l)
    s.writeCells c
  else s.homeWrite pa l

/-! ### Read-modify-write (R302, R309, R359) -/

/-- The number of an atomic operation (R302). -/
def aopCode : AOp → Nat
  | .swap => 0 | .add => 1 | .and => 2 | .or => 3 | .xor => 4 | .min => 5 | .max => 6 | .minu => 7 | .maxu => 8 | .fadd => 9

/-- The operation of a number. -/
def aopOf : Nat → Option AOp
  | 0 => some .swap | 1 => some .add | 2 => some .and | 3 => some .or | 4 => some .xor | 5 => some .min | 6 => some .max
  | 7 => some .minu | 8 => some .maxu | 9 => some .fadd | _ => none

/-- FP32 addition of FADD: nearest even, no flag, FPCTL ignored; any NaN, and +inf + −inf, give the canonical NaN (R302). -/
def faddWord (x y : Nat) : Nat :=
  (roundTo .f32 0 false (fAdd (Config.zeroSumNeg 0 x y 0) (elemValue .f32 x) (elemValue .f32 y)).1).1

/-- The new value of an operation on n bytes (R302). -/
def aopNew (op : AOp) (n old y : Nat) : Nat :=
  let w := 8 * n
  match op with
  | .swap => y
  | .add => (old + y) % 2 ^ w
  | .and => old &&& y
  | .or => old ||| y
  | .xor => old ^^^ y
  | .min => if signedOf w old < signedOf w y then old else y
  | .max => if signedOf w old < signedOf w y then y else old
  | .minu => min old y
  | .maxu => max old y
  | .fadd => faddWord old y

/-- A read-modify-write: an operation, or compare and swap. -/
inductive Rmw
  | amo (op : AOp) (y : Word)
  | cas (expect new : Word)
deriving DecidableEq, Repr

/-- The new value at the place (R302, R309). -/
def Rmw.new (r : Rmw) (n old : Nat) : Nat :=
  match r with
  | .amo op y => aopNew op n old (y.toNat % 2 ^ (8 * n))
  | .cas e v => if old == e.toNat % 2 ^ (8 * n) then v.toNat % 2 ^ (8 * n) else old

/-- The value returned (R302, R309). -/
def Rmw.ret (r : Rmw) (n old : Nat) : Word :=
  if n == 8 then BitVec.ofNat 64 old
  else
    match r with
    | .amo .minu _ | .amo .maxu _ | .amo .fadd _ => BitVec.ofNat 64 old
    | _ => sextBytes n old

/-- Perform a read-modify-write at the home (R117): the full bit stays as it is (R112); a comparison that fails writes
nothing. -/
def State.rmw (s : State) (w : By) (r : Rmw) (pa n : Nat) : State × Word :=
  let old := s.home pa n
  let new := r.new n old
  let s' := match r with
    | .cas e _ => if old == e.toNat % 2 ^ (8 * n) then s.guardWrite w pa (toBytes n new) else s
    | .amo .. => s.guardWrite w pa (toBytes n new)
  (s', r.ret n old)

end Sys2Proof.Machine
end

