-- ==== Sys2Proof/Machine/Atomics.lean ====
section
/-! DEFINITION. Atomics: AMO, CAS and RED at issue, returning atomics when performed, and far operations of RED and NFREE
at their homes (R116 to R118, R302, R303, R309, R359 to R361). -/

namespace Sys2Proof.Machine
open Sys2Proof

/-- Bytes of an atomic. -/
def atomicBytes (dbl : Bool) : Nat := if dbl then 8 else 4

/-- The checks of an atomic at issue (R303): alignment, space, device, walk, format raw or FP32. -/
def atomicAct (ga : Word) (n : Nat) (k : Place → State → Act) (s : State) : Act :=
  if ga.toNat % n != 0 then .trap causeMisalign ga
  else if isWindow ga then .trap causePagePerm ga
  else
    match place (s.tileAgent s.tileId) true ga n .atomic wordFmt s with
    | (.error b, s) => b.act s
    | (.ok p, s) => k p s

/-- AMO (R302): a boundary word, its operands read at issue. -/
def execAmo (h : Hdr) (d a b : SReg) (op : AOp) (dbl : Bool) (s : State) : Host.Outcome State Fault Refusal :=
  issue .A 1 h (fun s => atomicAct (s.sr a) (atomicBytes dbl)
    (fun _ s => .done (s.boundary (.amo d (s.sr a) op dbl (s.sr b)))) s) s

/-- Whether a task's 64-bit CAS reaches OWNER of a device: R277 lets privileged tasks and peers claim with it, where R303 refuses every
other atomic on a control window (DEDUCED, log 49). -/
def State.reachesOwner (s : State) (ga : Word) (dbl : Bool) : Bool :=
  dbl && s.tile.priv && match spaceOf (fld ga 51 0) with
    | .window off => off == ownerOff && !(s.device s.tile.ctxid (fld ga 63 52)).isNone
    | _ => false

/-- CAS (R277, R309). -/
def execCas (h : Hdr) (d a b c : SReg) (dbl : Bool) (s : State) : Host.Outcome State Fault Refusal :=
  issue .A 1 h (fun s =>
    let go := fun (s : State) => Act.done (s.boundary (.cas d (s.sr a) dbl (s.sr b) (s.sr c)))
    if s.reachesOwner (s.sr a) dbl then go s else atomicAct (s.sr a) (atomicBytes dbl) (fun _ s => go s) s) s

/-- RED (R359): a far operation held to its chunk's commit. -/
def execRed (h : Hdr) (a b : SReg) (op : AOp) (dbl : Bool) (s : State) : Host.Outcome State Fault Refusal :=
  issue .A 1 h (fun s => atomicAct (s.sr a) (atomicBytes dbl)
    (fun p s =>
      match p with
      | .mem pa l =>
        let w := s.tile.ident s.tileId
        .done (s.holdEffect (.far ⟨.red op dbl (s.sr b), w, pa, some s.tileId, 0, l.map (·.gen), s.sr a, 0, 0, false⟩))
      | p =>
        match p.request kFar (aopCode op + (if dbl then 16 else 0)) (s.sr a) (s.sr b) 0 [] with
        | some q => .done (s.holdEffect (.remote q))
        | none => .trap causePagePerm (s.sr a)) s) s

/-! ### Returning atomics when performed -/

/-- The atomic a boundary word stands for: destination, address, size, operation. -/
def BOp.rmw : BOp → Option (SReg × Word × Bool × Rmw)
  | .amo d a op dbl y => some (d, a, dbl, .amo op y)
  | .cas d a dbl e n => some (d, a, dbl, .cas e n)
  | _ => none

/-- Boundary words that are performed in the order in which their chunks were committed (R32, R82, R117). -/
def BOp.inOrder : BOp → Bool
  | .amo .. | .cas .. | .freg .. | .fres .. | .nalloc .. => true
  | _ => false

/-- Whether the boundary word of a tile is next in package commit order (R82, R117). -/
def State.atomicTurn (s : State) (t : Nat) : Bool :=
  match (s.tileAt t).bnd with
  | some b =>
    match b.op.inOrder, b.commitNo with
    | true, some n => !b.begun && s.tiles.all fun u =>
        match (s.tileAt u).bnd with
        | some c => !(c.op.inOrder && !c.begun && (match c.commitNo with | some m => decide (m < n) | none => false))
        | none => true
    | _, _ => false
  | none => false

/-- The operation code and operands of an atomic's request (R265). -/
def Rmw.request (r : Rmw) (dbl : Bool) (p : Place) (ga : Word) : Option Request :=
  let sz := if dbl then 16 else 0
  match r with
  | .amo op y => p.request kAmo (aopCode op + sz) ga y 0 []
  | .cas e n => p.request kCas sz ga e n []

/-- A returning atomic leaves for another device; its answer completes it (R117, R303). -/
def State.sendAtomic (s : State) (t : Nat) (b : Bnd) (q : Option Request) (ga : Word) : State :=
  match q with
  | none => s.bndFault t causePagePerm ga
  | some q =>
    if !s.roomAt t then s
    else
    let id := (s.tileAt t).srcSeq.toNat
    match s.request t q .atomic b.seq 0 b.idx with
    | (s, some c) => s.bndFault t c ga
    | (s, none) => s.modTile t fun x => { x with bnd := x.bnd.map fun b => { b with begun := true, req := some id } }

/-- A returning atomic at its home (R117, R118, R139, R303). -/
def State.atomicAt (s : State) (t : Nat) (b : Bnd) (d : SReg) (ga : Word) (n pa : Nat) (gen : Option Byte) (r : Rmw) : State :=
  if s.undrained pa n || s.now < b.count then s
  else
    let (q, s1) := s.takeSrcSeq t
    match s1.arriveHome t q pa gen false with
    | .wait => s.modTile t fun x => { x with bnd := x.bnd.map fun b => { b with count := s.now + 64 } }
    | .stale s2 => s2.bndFault t causePageAbsent ga
    | .away nd pa g s2 =>
      match s2.device b.who.ctx nd.toNat with
      | some (.there p c k) => s2.sendAtomic t b (r.request (n == 8) (.phys p c k pa g ⟨0, 0, false⟩) ga) ga
      | _ => s2.bndFault t causeRouteBad ga
    | .apply pa s2 =>
      let (s3, bad) := s2.sense pa n
      if bad then s3.bndFault t causePoisonData (BitVec.ofNat 64 (pa / 64 * 64))
      else
        let (s4, v) := s3.rmw b.who.by_ r pa n
        s4.finishBnd t (some (d, v))

/-- ATOMIC_PERFORM: the AMO or CAS of a tile, in package commit order (R117). -/
def execAtomicPerform (t : TileNo) (s : State) : Host.Outcome State Fault Refusal :=
  let t := t.toNat
  if !s.atomicTurn t then .next s
  else
    match (s.tileAt t).bnd with
    | none => .next s
    | some b =>
      match b.op.rmw with
      | none => .next s
      | some (d, ga, dbl, r) =>
        let n := atomicBytes dbl
        match place (s.identAgent b.who) true ga n .atomic wordFmt s with
        | (.error (.precise c v), s) | (.error (.deferred c v), s) => .next (s.bndFault t c v)
        | (.error (.park p), s) => .next (s.bndPark t p)
        | (.error .retry, s) => .next s
        | (.ok (.mem pa l), s) => .next (s.atomicAt t b d ga n pa (l.map (·.gen)) r)
        | (.ok (.window off), s) =>
          match off == ownerOff, r with
          | true, .cas e v => .next ((s.ownerSwap e v).1.finishBnd t (some (d, (s.ownerSwap e v).2)))
          | _, _ => .next (s.bndFault t causePagePerm ga)
        | (.ok p, s) => .next (s.sendAtomic t b (r.request dbl p ga) ga)

/-! ### Far operations at their homes -/

/-- A walk. -/
def FarOp.isWalk (f : FarOp) : Bool :=
  match f.kind with
  | .nvloss _ | .nback .. => true
  | _ => false

/-- Whether two far operations of a tile keep their program order: they have the same home address, or are walks from the
same start node (R116, R212). -/
def FarOp.samePlace (a b : FarOp) : Bool :=
  match a.kind, b.kind with
  | .red .., .red .. => a.home / 8 == b.home / 8
  | .red .., _ => false
  | _, .red .. => false
  | _, _ => a.lvl == 0 && b.lvl == 0 && a.home == b.home || fld a.ga 21 0 == fld b.ga 21 0 && a.isWalk && b.isWalk

/-- Whether a far operation can be applied or answered: it does not wait to be resent after a RETRY, and no store to its
place is on the way. (DEDUCED, log 90) -/
def State.farReady (s : State) (f : FarOp) : Bool :=
  f.notBefore == 0 && match f.kind with
    | .red _ dbl _ => !s.undrained f.home (atomicBytes dbl)
    | _ => !s.undrained (nodeBase f.home) 32

/-- The far operations that may be applied next, in order of departure (R116). -/
def State.farChoices (s : State) (walks : Bool) : List Nat :=
  (List.range s.far.length).filter fun i =>
    match s.far[i]? with
    | some f => f.isWalk == walks && s.farReady f && (s.far.take i).all fun g => !(g.who.tile == f.who.tile && g.samePlace f)
    | none => false

/-- One of several choices, by the counter of free values (DESIGN CHOICE, log 10). -/
def State.pick (s : State) (l : List Nat) : Option (Nat × State) :=
  match l with
  | [] => none
  | [i] => some (i, s)
  | l => some (l.getD (Config.farOrder s.free % l.length) 0, s.tick)

/-- A RED at its home (R139, R359, R360). -/
def State.redAt (s : State) (i : Nat) (f : FarOp) (op : AOp) (dbl : Bool) (y : Word) : State :=
  let n := atomicBytes dbl
  let gone : State := { s with far := s.far.eraseIdx i }
  match gone.arriveHome f.who.tile f.seqNo f.home f.gen f.redirected with
  | .wait => { s with far := s.far.set i { f with notBefore := s.now + 64 } }
  | .stale s2 => s2
  | .away nd pa g s2 =>
    match s2.device f.who.ctx nd.toNat with
    | some (.there p c k) =>
      match (Place.phys p c k pa g ⟨0, 0, false⟩).request kFar (aopCode op + (if dbl then 16 else 0)) f.ga y 0 [] with
      | some q => s2.leave f.who.tile [(0, q)]
      | none => s2
    | _ => s2.reportLate f.tile causeRouteBad f.ga
  | .apply pa s2 =>
    let (s3, bad) := s2.sense pa n
    if bad then s3.poisonLate f.who f.tile pa else (s3.rmw f.who.by_ (.amo op y) pa n).1

/-- The owner tag of a node. -/
def State.nodeTag (s : State) (n : Nat) : Option NodeTag := (s.nodes.find? fun e => e.1 == n).map (·.2)

/-- A reference to a node of this device (R207). -/
def nodeRef (n : Nat) : Word := BitVec.ofNat 64 (0xFFF * 2 ^ 52 + n)

/-- A node release at the node's NSM (R208, R213): the tag goes and the budget is released; a node that is not allocated,
or not the context's own, is BADFREE. -/
def State.nfreeAt (s : State) (f : FarOp) : State :=
  match s.nodeTag f.home with
  | some tag =>
    if tag.ctx == f.who.ctx then
      (bill (s.identAgent f.who) .nsm tag.region.toNat (-1) (s.freeNode f.home)).2
    else s.modDie (f.home / 2 ^ 20) fun x => { x with badfree := true, errnode := nodeRef f.home }
  | none => s.modDie (f.home / 2 ^ 20) fun x => { x with badfree := true, errnode := nodeRef f.home }

/-- FAR_OP_APPLY: one RED or NFREE is applied at its home as one atomic update (R116). (DEDUCED, log 51) -/
def execFarOpApply (s : State) : Host.Outcome State Fault Refusal :=
  match s.pick (s.farChoices false) with
  | none => .next s
  | some (i, s) =>
    match s.far[i]? with
    | none => .next s
    | some f =>
      match f.kind with
      | .red op dbl y => .next (s.redAt i f op dbl y)
      | .nfree => .next (({ s with far := s.far.eraseIdx i } : State).nfreeAt f)
      | _ => .next s

end Sys2Proof.Machine
end

