-- ==== Sys2Proof/Machine/Tasks.lean ====
section
/-! DEFINITION. CANCEL and REPRI (R56 to R58, R307, R308, R362, R363), futures (R31 to R33, R323, R324) and join arrivals
(R30). -/

namespace Sys2Proof.Machine
open Sys2Proof

/-- CANCEL (R307). -/
def execCancel (h : Hdr) (d a : SReg) (s : State) : Host.Outcome State Fault Refusal :=
  issue .A 1 h (fun s =>
    if fld (s.sr a) 63 32 != 0 then illegal s
    else .done (s.boundary (.cancel d (BitVec.ofNat 32 (s.sr a).toNat)))) s

/-- REPRI (R362). -/
def execRepri (h : Hdr) (d a b c : SReg) (s : State) : Host.Outcome State Fault Refusal :=
  issue .A 1 h (fun s =>
    if fld (s.sr a) 63 32 != 0 || fld (s.sr c) 63 32 != 0 then illegal s
    else .done (s.boundary (.repri d (BitVec.ofNat 32 (s.sr a).toNat) (s.sr b) (BitVec.ofNat 32 (s.sr c).toNat)))) s

/-! ### On the dies (R58) -/

/-- The dies of a partition, or the die given where it has none. -/
def State.partDies (s : State) (part d : Nat) : List Nat :=
  let l := (s.partTiles part).foldl (fun a t => insertNat (dieOf t) a) []
  if l.isEmpty then [d] else l

/-- Put an operation at the end of the queues of the dies `l`. -/
def State.pushOp (s : State) (l : List Nat) (o : DieOp) : State :=
  l.foldl (fun s d => s.modDie d fun x => { x with ops := x.ops ++ [o] }) s

/-- Take an operation out of every die's queue. -/
def State.dropOp (s : State) (o : DieOp) : State := { s with dies := s.dies.map fun x => { x with ops := x.ops.erase o } }

/-- Whether an operation is still on its way to some die. -/
def State.hasOp (s : State) (o : DieOp) : Bool := s.dies.toList.any fun x => x.ops.contains o

/-- TVAL for a fault on the RCB of a region (R224). -/
def State.rcbTval (s : State) (g : Agent) (r : Nat) (cause : Byte) : Word :=
  if cause == causePoisonData then
    match (s.agentPa g (rcbAddr g r 0) false).2 with
    | .ok pa => BitVec.ofNat 64 (pa / 64 * 64)
    | .error _ => BitVec.ofNat 64 (rcbAddr g r 0)
  else BitVec.ofNat 64 (rcbAddr g r 0)

/-- Count entries for the tile, or for the CANCSTAT that a cancellation reports to: of its last store, `no` (R62). -/
def State.countOp (s : State) (tile : Option Nat) (home no n : Nat) : State :=
  match tile with
  | some t => s.modTile t fun x => { x with bnd := x.bnd.map fun b => { b with count := b.count + n, begun := true } }
  | none => s.modDie home fun x => if x.cancNo == no then { x with canccnt := satAdd x.canccnt n } else x

/-- A cancellation is complete: its count lands in s[d], or CANCSTAT says so of the last store (R58, R62, R307). -/
def State.cancelDone (s : State) (tile : Option Nat) (home no : Nat) : State :=
  match tile with
  | some t =>
    match (s.tileAt t).bnd with
    | some b =>
      match b.op with
      | .cancel d _ => s.finishBnd t (some (d, BitVec.ofNat 64 (min b.count 0xFFFF)))
      | _ => s
    | none => s
  | none => s.modDie home fun x => if x.cancNo == no then { x with cbusy := false } else x

/-- A cancellation reaches die `d` (R57, R58).  The die that it reaches first reads the RCB and sets the states. -/
def cancelOn (d : Nat) (who : Ident) (region : BitVec 32) (tile : Option Nat) (home no : Nat) (sel : Option (List Nat)) (s : State) :
    State :=
  let g : Agent := { s.identAgent who with die := d }
  let r := region.toNat
  let op := DieOp.cancel who region tile home no sel
  match sel with
  | none =>
    let s := s.countOp tile home no 0
    match rcbWord g r 0 s with
    | (.error c, s) =>
      let s := s.dropOp op
      match tile with
      | some t => s.bndFault t c (s.rcbTval g r c)
      | none => ((unpinned g r (s.rcbTval g r c) s).2).cancelDone tile home no
    | (.ok w, s) =>
      if fld w 63 56 != 1 then (s.dropOp op).cancelDone tile home no
      else
        let ((l, ok), s) := cancelStates g r s
        let op' := DieOp.cancel who region tile home no (some l)
        let s : State := { s with dies := s.dies.map fun x => { x with ops := x.ops.map fun o => if o == op then op' else o } }
        (orUnpinned g r (pure ok) s).2
  | some l =>
    let ((n, ok), s) := cancelDie g d l s
    let s := (s.modDie d fun x => { x with ops := x.ops.erase op, dispAt := max x.dispAt (x.cyc.toNat + 1) }).countOp tile home no n
    let s := (orUnpinned g r (pure ok) s).2
    if s.hasOp op then s
    else
      let s := (l.forM (fun k => closeIfIdle g k) s).2
      s.cancelDone tile home no

/-- The cancellation at the head of a die's queue is applied. -/
def State.cancelHead (s : State) (d : Nat) : State :=
  match (s.die d).ops with
  | .cancel who region tile home no none :: _ =>
    let s1 := cancelOn d who region tile home no none s
    match (s1.die d).ops with
    | .cancel who2 r2 t2 h2 n2 (some l) :: _ =>
      if who2 == who && r2 == region && t2 == tile && h2 == home && n2 == no then cancelOn d who region tile home no (some l) s1 else s1
    | _ => s1
  | .cancel who region tile home no (some l) :: _ => cancelOn d who region tile home no (some l) s
  | _ => s

/-- CANCEL_APPLY: the cancellation at the head of a die's queue (R57, R58). -/
def execCancelApply (d : DieNo) (s : State) : Host.Outcome State Fault Refusal := .next (s.attempt fun s => s.cancelHead d.toNat)

/-- Whether REPRI changes an entry (R56). -/
def Entry.matches (e : Entry) (ctx : BitVec 16) (region : BitVec 32) (mtch : Word) : Bool :=
  e.ctx == ctx && e.blk.region == region && vget e.blk.args 0 == mtch

/-- The new key of an entry: an applied BOOST is a floor (R56). -/
def Entry.rekey (e : Entry) (ek boost : BitVec 32) : Entry := { e with ek := if e.boosted && ek < boost then boost else ek }

/-- A class with its queued members changed (R56, R363). -/
def ChClass.rekey (c : ChClass) (f : Entry → Bool) (g : Entry → Entry) : ChClass :=
  { c with collecting := if c.closed.isSome then c.collecting else mapIf f g c.collecting, backlog := mapIf f g c.backlog }

/-- A re-prioritisation reaches die `d`; a Chorus close of the cycle comes first (R56, DESIGN CHOICE, log 101). -/
def repriOn (d : Nat) (who : Ident) (region : BitVec 32) (mtch : Word) (key : BitVec 32) (t : Nat) (s : State) : State :=
  let g : Agent := { s.identAgent who with die := d }
  let r := region.toNat
  let op := DieOp.repri who region mtch key t
  let s := (s.countOp (some t) d 0 0).modDie d Die.settle
  match rcbWord g r 0 s with
  | (.error c, s) => (s.dropOp op).bndFault t c (s.rcbTval g r c)
  | (.ok w, s) =>
    let f := fun (e : Entry) => fld w 63 56 == 1 && e.matches who.ctx region mtch
    let (base, s) := priobase g r s
    let (cls, s) := dlOf g d r s
    let chg := fun (e : Entry) => e.rekey (effKey key base) ((cls.map (·.boost)).getD 0)
    let x := s.die d
    let spilled := (x.buckets.flatMap (·.2)).filter f
    let members := x.chIn.filter f ++ x.ch.toList.flatMap fun c =>
      ((if c.closed.isSome then [] else c.collecting) ++ c.backlog).filter f
    let n := (x.heap.filter f).length + (x.moves.filter fun e => f e.2).length + spilled.length + members.length
    let s := s.modDie d fun x => { x with
      heap := mapIf f chg x.heap
      moves := x.moves.map fun e => if f e.2 then (e.1, chg e.2) else e
      buckets := (x.buckets.map fun b => (b.1, b.2.filter fun e => !f e)).filter fun b => !b.2.isEmpty
      chIn := mapIf f chg x.chIn
      ch := x.ch.map fun c => c.rekey f chg
      ops := x.ops.erase op
      dispAt := max x.dispAt (x.cyc.toNat + 1) }
    let s := (spilled.forM (fun e => do heapArrive ((← get).agent d e.ctx) d (chg e)) s).2
    let s := s.countOp (some t) d 0 n
    let s := if members.isEmpty then s else s.modTile t fun x => { x with bnd := x.bnd.map fun b => { b with chorus := true } }
    if s.hasOp op then s
    else
      match (s.tileAt t).bnd with
      | some b =>
        match b.op with
        | .repri rd .. => s.finishBnd t (some (rd, BitVec.ofNat 64 (min b.count 0xFFFF + onebit 16 b.chorus)))
        | _ => s
      | none => s

/-- REPRI_APPLY: the re-prioritisation at the head of a die's queue (R56, R58). -/
def execRepriApply (d : DieNo) (s : State) : Host.Outcome State Fault Refusal :=
  match (s.die d.toNat).ops with
  | .repri who region mtch key t :: _ => .next (s.attempt (repriOn d.toNat who region mtch key t))
  | _ => .next s

/-! ### Futures (R31, R32, R323, R324) -/

/-- Whether an address is certain to be refused precisely: another device, no memory, or beyond flat SRAM; an entry that is not valid is
ROUTE_BAD instead (R103, R323). -/
def State.futurePerm (s : State) (ga : Word) : Bool :=
  match spaceOf (fld ga 51 0), s.device s.tile.ctxid (fld ga 63 52) with
  | .flat sl off, some .here => match s.flatPlace (s.tileAgent s.tileId) true sl off 16 ga with | .ok _ => false | .error _ => true
  | .flat .., none | .paged, none | .paged, some .here => false
  | _, _ => true

/-- The checks of a future or waiter cell at issue (R323): PAGE_PERM for another device and any place but flat SRAM and
paged space of this one; a future's page must be raw or FP32. -/
def futureAct (ga : Word) (use : Use) (fmt : Bool) (k : State → Act) (s : State) : Act :=
  if s.futurePerm ga then .trap causePagePerm ga
  else
    match place (s.tileAgent s.tileId) true ga 16 use (if fmt then wordFmt else anyFmt) s with
    | (.error b, s) => b.act s
    | (.ok (.mem ..), s) => k s
    | (.ok _, s) => .deferred causePagePerm ga s

/-- FREG (R323): a boundary word. -/
def execFreg (h : Hdr) (d a b : SReg) (s : State) : Host.Outcome State Fault Refusal :=
  issue .A 1 h (fun s =>
    let f := s.sr a
    let c := s.sr b
    if f.toNat % 16 != 0 then .trap causeMisalign f
    else if c.toNat % 16 != 0 then .trap causeMisalign c
    else if s.futurePerm f then .trap causePagePerm f
    else if s.futurePerm c then .trap causePagePerm c
    else futureAct f .atomic true (fun s => futureAct c .wr false (fun s => .done (s.boundary (.freg d f c))) s) s) s

/-- FRES (R324): a boundary word. -/
def execFres (h : Hdr) (a b : SReg) (fail : Bool) (s : State) : Host.Outcome State Fault Refusal :=
  issue .A 1 h (fun s =>
    let f := s.sr a
    if f.toNat % 16 != 0 then .trap causeMisalign f
    else futureAct f .atomic true (fun s => .done (s.boundary (.fres f (s.sr b) fail))) s) s

/-- An address of a boundary word at its home: reached at a physical address, not yet, or failed (R139, R226). -/
inductive Reach
  | here (pa : Nat) (s : State)
  | wait (s : State)
  /-- PARK: the task parks on the page (R128). -/
  | park (page : BitVec 36) (s : State)
  | fail (cause : Byte) (tval : Word) (s : State)

/-- Reach the home of `n` bytes for a boundary word of a tile. -/
def State.reach (s : State) (t : Nat) (b : Bnd) (ga : Word) (n : Nat) (use : Use) : Reach :=
  match Sys2Proof.Machine.place (s.identAgent b.who) true ga n use (if use == .atomic then wordFmt else anyFmt) s with
  | (.error (.precise c v), s) | (.error (.deferred c v), s) => .fail c v s
  | (.error (.park p), s) => .park p s
  | (.error .retry, s) => .wait s
  | (.ok (.mem pa l), s) =>
    if s.undrained pa n || s.now < b.count then .wait s
    else
      let (q, s1) := s.takeSrcSeq t
      match s1.arriveHome t q pa (l.map (·.gen)) false with
      | .wait => .wait (s.modTile t fun x => { x with bnd := x.bnd.map fun b => { b with count := s.now + 64 } })
      | .stale s2 => .fail causePageAbsent ga s2
      | .away _ _ _ s2 => .fail causePageAbsent ga s2
      | .apply pa s2 => .here pa s2
  | (.ok _, s) => .fail causePagePerm ga s

/-- The arrival that FREG makes at once (R32). -/
def State.arriveSoon (s : State) (t : Nat) (who : Ident) (blk : Word) (failed : Bool) : State :=
  { s with arrivals := s.arrivals ++ [⟨blk, failed, who, (s.tileAt t).progbase⟩] }

/-- FREG_PERFORM (R32, R323). -/
def execFregPerform (t : TileNo) (s : State) : Host.Outcome State Fault Refusal :=
  let t := t.toNat
  if !s.atomicTurn t then .next s
  else
    match (s.tileAt t).bnd with
    | none => .next s
    | some b =>
      match b.op with
      | .freg d f c =>
        match s.reach t b f 16 .atomic with
        | .wait s => .next s
        | .park p s => .next (s.bndPark t p)
        | .fail k v s => .next (s.bndFault t k v)
        | .here fa s =>
          match s.reach t b c 16 .wr with
          | .wait s => .next s
          | .park p s => .next (s.bndPark t p)
          | .fail k v s => .next (s.bndFault t k v)
          | .here ca s =>
            let (s, bad) := s.sense fa 16
            if bad then .next (s.bndFault t causePoisonData (BitVec.ofNat 64 (fa / 64 * 64)))
            else
              let w0 := s.home64 fa
              let n := fld w0 15 2
              if fld w0 1 0 == 0 then
                if n == 16383 then .next (s.finishBnd t (some (d, 3)))
                else
                  let s := s.agentStore (s.identAgent b.who) ca (BitVec.ofNat 64 (fld w0 63 16 * 16))
                  let s := s.agentStore (s.identAgent b.who) fa (BitVec.ofNat 64 (fld c 51 4 * 2 ^ 16 + (n + 1) * 4))
                  .next (s.finishBnd t (some (d, 0)))
              else
                let failed := fld w0 1 0 != 1
                let (s, lost) := s.sense (ca + 8) 8
                let s := if lost then (jerr (s.identAgent b.who) b.who.region.toNat s).2
                  else s.arriveSoon t b.who (s.home64 (ca + 8)) failed
                .next (s.finishBnd t (some (d, if failed then 2 else 1)))
      | _ => .next s

/-- FRES_PERFORM (R32, R324). -/
def execFresPerform (t : TileNo) (s : State) : Host.Outcome State Fault Refusal :=
  let t := t.toNat
  if !s.atomicTurn t then .next s
  else
    match (s.tileAt t).bnd with
    | none => .next s
    | some b =>
      match b.op with
      | .fres f v fail =>
        match s.reach t b f 16 .atomic with
        | .wait s => .next s
        | .park p s => .next (s.bndPark t p)
        | .fail k tv s => .next (s.bndFault t k tv)
        | .here fa s =>
          let (s, bad) := s.sense fa 16
          if bad then .next (s.bndFault t causePoisonData (BitVec.ofNat 64 (fa / 64 * 64)))
          else
            match resolve (s.identAgent b.who) (s.tileAt t).progbase fa v fail s with
            | (true, s) => .next (s.finishBnd t none)
            | (false, s) => .next (s.bndFault t causeFutureTwice f)
      | _ => .next s

/-- JOIN_ARRIVAL: the first arrival in flight is applied at its block's home (R30). -/
def execJoinArrival (s : State) : Host.Outcome State Fault Refusal :=
  match s.arrivals with
  | [] => .next s
  | a :: r =>
    .next (s.attempt fun s => (arrive (s.identAgent a.who) a.prog a.who.region.toNat a.addr a.failed { s with arrivals := r }).2)

end Sys2Proof.Machine
end

