-- ==== Sys2Proof/Machine/Nodes.lean ====
section
/-! DEFINITION. Node words and walks (R205 to R214, R349 to R353, R355). -/

namespace Sys2Proof.Machine
open Sys2Proof

/-- Where a node reference leads: a node of this device, or another device. -/
inductive NodePlace
  | here (n : Nat)
  | there (pdev : BitVec 12) (rctx : BitVec 16) (slot : BitVec 10) (la : Nat)

/-- The checks of a node reference at issue (R207, R350); `bad` is the word's own ILLEGAL check. -/
def nodeAct (ref : Word) (bad : Bool) (k : NodePlace → State → Act) (s : State) : Act :=
  if fld ref 51 22 != 0 || bad then illegal s
  else
    match s.device s.tile.ctxid (fld ref 63 52) with
    | none => .trap causeRouteBad ref
    | some .here => k (.here (fld ref 21 0)) s
    | some (.there p c d) => k (.there p c d (nodeAddr (fld ref 21 0))) s

/-- Whether `n` nodes from `a` on belong to a context. -/
def State.ownsNodes (s : State) (ctx : BitVec 16) (a n : Nat) : Bool :=
  (List.range n).all fun i => match s.nodeTag (a + i) with | some t => t.ctx == ctx | none => false

/-- The block loads of a remote read of `n` bytes: (offset, length), at most 224 bytes each (R265). -/
def blocks224 (n : Nat) : List (Nat × Nat) := (List.range (ceilDiv n 224)).map fun i => (i * 224, min 224 (n - i * 224))

/-- The remote block loads of a vector destination: one request each (R265). -/
def blockLoads (ga : Word) (d : VReg) (idx seq : Nat) : List (Request × List (Nat × Nat × Nat)) → Nat → State → State × Option Byte
  | [], _, s => (s, none)
  | (q, pl) :: r, part, s =>
    match s.request s.tileId q (.vector d pl) seq part idx with
    | (s, some c) => (s, some c)
    | (s, none) => blockLoads ga d idx seq r (part + 1) s

/-- NLD (R209, R353); a block of nodes of another device carries in its second operand how many nodes the word reads from its first one
on, for the target's check (DEDUCED, log 17). -/
def execNld (h : Hdr) (v : VReg) (a : SReg) (cm1 : BitVec 4) (s : State) : Host.Outcome State Fault Refusal :=
  issue .A 1 h (fun s =>
    let cnt := cm1.toNat + 1
    let ref := s.sr a
    nodeAct ref false (fun p s =>
      match p with
      | .here n =>
        if 2 ^ 20 < n % 2 ^ 20 + cnt || !s.ownsNodes s.tile.ctxid n cnt then .trap causePagePerm ref
        else
          let pa := nodeBase n
          s.consume pa (32 * cnt) fun s =>
            let (x, en) := placeBytes 0 (32 * cnt) (s.coreRead pa (32 * cnt))
            .done ((s.noteReads (lineKeys pa (32 * cnt))).pushLoad (.vec v x en) none)
      | .there p c k la =>
        let id := s.tile.srcSeq.toNat
        let qs := (blocks224 (32 * cnt)).map fun b =>
          ((⟨kLoad, ref, p, c, k, la + b.1, none, 4, BitVec.ofNat 64 b.2, BitVec.ofNat 64 (cnt - b.1 / 32), []⟩ : Request), [(8 * b.1, 0, 8 * b.2)])
        if !s.roomRemote qs.length then .retry
        else
        match blockLoads ref v s.tile.iw.idx s.tile.iw.seq qs 0 s with
        | (s, some c) => .deferred c ref s
        | (s, none) => .done (s.pushLoad (.vec v 0 (placeBytes 0 (32 * cnt) 0).2) (some id))) s) s

/-- The number of a node field and its place: byte offset and bytes (R205, R355). -/
def nfieldCode : NField → Nat
  | .n => 0 | .vl => 1 | .flags => 2 | .w => 3 | .parent => 4 | .prior => 5 | .depth => 6 | .fchild => 7 | .ccount => 8
def nfieldAt : NField → Nat × Nat
  | .n => (0, 4) | .vl => (4, 2) | .flags => (6, 2) | .w => (8, 8) | .parent => (16, 4) | .prior => (20, 2)
  | .depth => (22, 2) | .fchild => (24, 4) | .ccount => (28, 2)

/-- The node field of a number. -/
def nfieldOf : Nat → Option NField
  | 0 => some .n | 1 => some .vl | 2 => some .flags | 3 => some .w | 4 => some .parent | 5 => some .prior | 6 => some .depth
  | 7 => some .fchild | 8 => some .ccount | _ => none

/-- The cells of an NST: a write of FLAGS leaves ALLOC, bit 4 of the field's low byte (R209). -/
def nstCells (n : Nat) (f : NField) (v : Word) : List (Nat × Byte × Byte) :=
  let (o, w) := nfieldAt f
  (cellsAt (nodeBase n + o) (toBytes w v.toNat)).map fun c => if f == .flags && c.1 == nodeBase n + o then (c.1, 0xEF, c.2.2) else c

/-- NST (R355): a store of one field. -/
def execNst (h : Hdr) (a b : SReg) (f : NField) (s : State) : Host.Outcome State Fault Refusal :=
  issue .A 1 h (fun s =>
    let ref := s.sr a
    let v := s.sr b
    let bad := 2 ^ (8 * (nfieldAt f).2) ≤ v.toNat || f == .flags && bitAt v 7
    nodeAct ref bad (fun p s =>
      match p with
      | .here n =>
        if !s.ownsNodes s.tile.ctxid n 1 then .trap causePagePerm ref
        else
          let g := s.tile.ident s.tileId
          let st : Store :=
            { range := ⟨none, nodeAddr n, nodeAddr n + 31⟩, cells := nstCells n f v, gen := none, node := some n, tile := s.tileId,
              ctx := g.ctx, region := g.region, seqNo := 0, commitNo := 0, notBefore := 0, redirected := false,
              upset := false }
          s.bufferStore (lineKeys (nodeBase n) 32) true [st]
      | .there p c k la =>
        .done (s.holdEffect (.remote ⟨kStore, ref, p, c, k, la, none, 2 * 32 + nfieldCode f, v, 0, toBytes (nfieldAt f).2 v.toNat⟩))) s) s

/-- NALLOC (R349): a boundary word. -/
def execNalloc (h : Hdr) (d : SReg) (s : State) : Host.Outcome State Fault Refusal :=
  issue .A 1 h (fun s => .done (s.boundary (.nalloc d))) s

/-- The least number from `k` on that is not a key of an ascending list. -/
def firstGap (k : Nat) : List Nat → Nat
  | [] => k
  | j :: r => if j < k then firstGap k r else if j = k then firstGap (k + 1) r else k

/-- The lowest-numbered free node of a die (R208). -/
def State.lowestFree (s : State) (d : Nat) : Option Nat :=
  let n := firstGap (d * 2 ^ 20) (s.nodes.map (·.1))
  if n < (d + 1) * 2 ^ 20 then some n else none

/-- The reset image of a record (R205). -/
def nodeImage : List Byte :=
  toBytes 8 (0x0010 * 2 ^ 48) ++ toBytes 8 0 ++ toBytes 8 0xFFFFFFFF ++ toBytes 8 0xFFFFFFFF

/-- NALLOC_PERFORM (R208, R349). -/
def execNallocPerform (t : TileNo) (s : State) : Host.Outcome State Fault Refusal :=
  let t := t.toNat
  if !s.atomicTurn t then .next s
  else
    match (s.tileAt t).bnd with
    | none => .next s
    | some b =>
      match b.op with
      | .nalloc d =>
        match s.lowestFree (dieOf t) with
        | none => .next (s.finishBnd t (some (d, BitVec.allOnes 64)))
        | some n =>
          let g := s.identAgent b.who
          match fitsBudget g .nsm b.who.region.toNat 1 s with
          | (some r, s) => .next ((setStatus g b.who.region.toNat 3 s).2.bndFault t causeBudget (BitVec.ofNat 64 r))
          | (none, s) =>
            let s := (bill g .nsm b.who.region.toNat 1 s).2
            let s := s.homeWrite (nodeBase n) nodeImage
            let s := { s with nodes := Assoc.put n ⟨b.who.ctx, b.who.region⟩ s.nodes }
            .next (s.finishBnd t (some (d, nodeRef n)))
      | _ => .next s

/-- OPER word 1 of a walk's request: RREGION, k, the level and the sign, packed so by the model (R265, DEDUCED, log 17). -/
def walkOper (region : BitVec 32) (k : BitVec 16) (lvl : Nat) (neg : Bool) : Word :=
  BitVec.ofNat 64 (region.toNat + k.toNat * 2 ^ 32 + lvl % 64 * 2 ^ 48 + onebit 56 neg)

/-- The request that carries a walk to another device (R213, R265). -/
def FarKind.walkRequest (f : FarKind) (ga : Word) (p : BitVec 12) (c : BitVec 16) (k : BitVec 10) (la lvl : Nat) (region : BitVec 32) :
    Request :=
  match f with
  | .nback j v alt neg => ⟨kWalk, ga, p, c, k, la, none, 1 + (if alt then 2 else 0), v, walkOper region j lvl neg, []⟩
  | .nvloss j => ⟨kWalk, ga, p, c, k, la, none, 0, 0, walkOper region j lvl false, []⟩
  | _ => ⟨kFar, ga, p, c, k, la, none, 32, 0, 0, []⟩

/-- A far operation on a node, held to the commit (R350 to R352). -/
def nodeFar (ref : Word) (bad : Bool) (f : FarKind) (s : State) : Act :=
  nodeAct ref bad (fun p s =>
    let w := s.tile.ident s.tileId
    match p with
    | .here n => .done (s.holdEffect (.far ⟨f, w, n, some s.tileId, 0, none, ref, 0, 0, false⟩))
    | .there p c k la => .done (s.holdEffect (.remote (f.walkRequest ref p c k la 0 w.region)))) s

/-- NFREE (R352). -/
def execNfree (h : Hdr) (a : SReg) (s : State) : Host.Outcome State Fault Refusal :=
  issue .A 1 h (fun s => nodeFar (s.sr a) false .nfree s) s

/-- NVLOSS (R350, R351). -/
def execNvloss (h : Hdr) (a b : SReg) (s : State) : Host.Outcome State Fault Refusal :=
  issue .A 1 h (fun s => nodeFar (s.sr a) (fld (s.sr b) 63 16 != 0) (.nvloss (BitVec.ofNat 16 (s.sr b).toNat)) s) s

/-- NBACK (R350, R351). -/
def execNback (h : Hdr) (a b c : SReg) (alt : Bool) (s : State) : Host.Outcome State Fault Refusal :=
  issue .A 1 h (fun s =>
    nodeFar (s.sr a) (fld (s.sr c) 63 16 != 0) (.nback (BitVec.ofNat 16 (s.sr c).toNat) (s.sr b) alt false) s) s

/-! ### Walks (R210 to R213) -/

/-- A record as four words. -/
structure NodeRec where
  w0 : Word
  w1 : Word
  w2 : Word
  w3 : Word
deriving DecidableEq, Repr

/-- The record of a node at its home. -/
def State.nodeRec (s : State) (n : Nat) : NodeRec :=
  let b := nodeBase n
  ⟨s.home64 b, s.home64 (b + 8), s.home64 (b + 16), s.home64 (b + 24)⟩

/-- Set a flag of FLAGS (R206). -/
def NodeRec.flag (r : NodeRec) (b : Nat) (on : Bool) : NodeRec := if on then { r with w0 := r.w0 ||| BitVec.ofNat 64 (2 ^ (48 + b)) } else r

/-- Apply (R211) to one record; RED and NFREE are no walks. -/
def FarKind.apply (f : FarKind) (r : NodeRec) : NodeRec :=
  match f with
  | .nvloss k =>
    let v := fld r.w0 47 32 + k.toNat
    ({ r with w0 := setFld r.w0 47 32 (min v 0xFFFF) } : NodeRec).flag 0 (0xFFFF < v)
  | .nback k v _ neg =>
    let n := fld r.w0 31 0 + 1
    let vl := fld r.w0 47 32
    let w := r.w1.toInt + (if neg then -v.toInt else v.toInt)
    let cw := clampInt w (-(2 ^ 63 : Nat)) (2 ^ 63 - 1 : Nat)
    let r1 : NodeRec := { r with w0 := setFld (setFld r.w0 31 0 (min n 0xFFFFFFFF)) 47 32 (vl - k.toNat), w1 := BitVec.ofInt 64 cw }
    ((r1.flag 2 (0xFFFFFFFF < n)).flag 1 (vl < k.toNat)).flag 3 (cw != w)
  | _ => r

/-- Walk on with the sign changed under ALT (R211). -/
def FarKind.onward : FarKind → FarKind
  | .nback k v true neg => .nback k v true !neg
  | f => f

/-- A walk stops on a bad remote entry at node `n` (R213). (DEDUCED, log 19) -/
def State.remBad (s : State) (n : Nat) : State := s.modDie (n / 2 ^ 20) fun x => { x with rembad := true, errnode := nodeRef n }

/-- A walk leaves for another device: as a request of its tile, or of the host die for a forwarded walk or a task that
has ended (R213, R267, R274). -/
def State.walkAway (s : State) (f : FarOp) (q : Request) : State :=
  match f.tile with
  | some t => s.leave t [(0, q)]
  | none =>
    match s.hostRequest q .ack 0 with
    | (s, some _) => s.lostOp q.ga
    | (s, none) => s

/-- The next node of a walk after node `n` with parent field `p` (R210); the walk has been taken out of flight from place
`i`, where it goes on. -/
def State.walkNext (s : State) (i : Nat) (f : FarOp) (n p lvl : Nat) : State :=
  let onward := fun (s : State) (x : FarOp) => { s with far := s.far.take i ++ x :: s.far.drop i }
  let prem := p / 2 ^ 22
  let next := p % 2 ^ 22
  let g := s.identAgent f.who
  if prem == 0 then onward s { f with kind := f.kind.onward, home := next, lvl := lvl }
  else
    match remtab g f.who.region.toNat s with
    | (none, s) => (unpinned g f.who.region.toNat (BitVec.ofNat 64 (rcbAddr g f.who.region.toNat 10)) (s.remBad n)).2
    | (some tab, s) =>
    match s.agentRead g (tab + prem * 8) with
    | (s, .error _) => s.remBad n
    | (s, .ok e) =>
      if !bitAt e 32 || fld e 51 33 != 0 then s.remBad n
      else
        let rr := BitVec.ofNat 32 e.toNat
        let ref := BitVec.ofNat 64 (fld e 63 52 * 2 ^ 52 + next)
        match s.device f.who.ctx (fld e 63 52) with
        | none => s.reportLate f.tile causeRouteBad ref
        | some .here =>
          onward s { f with kind := f.kind.onward, home := next, lvl := lvl, who := { f.who with region := rr } }
        | some (.there pd c k) => s.walkAway f (f.kind.onward.walkRequest ref pd c k (nodeAddr next) lvl rr)

/-- One node update of a walk that has been taken out of flight from place `i` (R211). -/
def State.walkAt (s : State) (i : Nat) (f : FarOp) : State :=
  let n := f.home
  let owned := match s.nodeTag n with | some t => t.ctx == f.who.ctx | none => false
  if !owned then s.modDie (n / 2 ^ 20) fun x => { x with badwalk := true, errnode := nodeRef n }
  else if s.uncorrectable (nodeBase n) 32 then
    let r := ((s.nodeTag n).map (·.region)).getD 0
    (unpinned (s.identAgent f.who) r.toNat (nodeRef n) s).2
  else
    let r := f.kind.apply (s.nodeRec n)
    let p := fld r.w2 31 0
    let stop := bitAt r.w0 53
    let lvl := f.lvl + 1
    let r := r.flag 6 (lvl == 64 && p != 0xFFFFFFFF && !stop)
    let s := s.homeWrite (nodeBase n) (toBytes 8 r.w0.toNat ++ toBytes 8 r.w1.toNat)
    if p == 0xFFFFFFFF || stop || 64 ≤ lvl then s else s.walkNext i f n p lvl

/-- WALK_NODE_UPDATE: one walk updates one node (R211, R212); a REMTAB or a remote device table in memory of another device is read
first (R126, R210). -/
def execWalkNodeUpdate (s : State) : Host.Outcome State Fault Refusal :=
  .next (s.attempt fun s =>
    match s.pick (s.farChoices true) with
    | none => s
    | some (i, s) =>
      match s.far[i]? with
      | none => s
      | some f => ({ s with far := s.far.eraseIdx i } : State).walkAt i f)

end Sys2Proof.Machine
end

