-- ==== Sys2Proof/Machine/Matrix.lean ====
section
/-! DEFINITION. Matrix words at issue: checks, footprints and the held command (R94, R182 to R192, R336 to R348). -/

namespace Sys2Proof

/-- The element types of A and B of a pair (R338). -/
def Pair.tyA : Pair → ETy
  | .e4m3e4m3 => .e4m3 | .e4m3e5m2 => .e4m3 | .e5m2e5m2 => .e5m2 | .e2m1e2m1 => .e2m1 | .e2m1e4m3 => .e2m1
  | .l6l6 => .l6 | .i8i8 => .i8 | .bf16bf16 => .bf16
def Pair.tyB : Pair → ETy
  | .e4m3e4m3 => .e4m3 | .e4m3e5m2 => .e5m2 | .e5m2e5m2 => .e5m2 | .e2m1e2m1 => .e2m1 | .e2m1e4m3 => .e4m3
  | .l6l6 => .l6 | .i8i8 => .i8 | .bf16bf16 => .bf16

end Sys2Proof

namespace Sys2Proof.Machine
open Sys2Proof

/-! ### Held commands (R94) -/

/-- A command of the word that issues, with what it captured at delivery. -/
def State.command (s : State) (op : CmdOp) (window : Word) (rd wr : List Range) : Cmd :=
  let t := s.tile
  { who := t.ident s.tileId, op := op, follow := none, ch := 0, tid := 0, bar := none, fut := false, seq := t.iw.seq, idx := t.iw.idx,
    fpctl := t.iw.caps.fpctl, window := window, rd := rd, wr := wr, issued := s.now, rel := 0, upset := false, orphan := false,
    copyDone := none }

/-- Hold a command to the chunk's commit: the tile has room for 64; the word that would hold the 65th ends the chunk before
itself, and waits as the first word of its chunk (R94). -/
def queueCmd (c : Cmd) (k : State → State) (s : State) : Act :=
  if 64 ≤ s.tile.cmdCount then (if s.isFirst then .retry else .before)
  else .done (k (s.holdEffect (.command c)))

/-! ### Scratchpad operands (R185 to R187) -/

def pitchRot (pw : Word) : Nat := fld pw 43 40
def pitchTile (pw : Word) : Nat := fld pw 39 20
def pitchRow (pw : Word) : Nat := fld pw 19 0

/-- Seg (R186): the address of the segment of row r in panel p. -/
def segAddr (base pw : Word) (r p : Nat) : Word :=
  let a := base + BitVec.ofNat 64 (p * pitchTile pw + r * pitchRow pw)
  if pitchRot pw == 0 then a else setFld a 8 6 ((fld a 8 6 + r * pitchRot pw) % 8)

/-- Elements of a panel along K, and the panels of a command (R186). -/
def panelK (t : ETy) : Nat := 512 / t.place
def panels (t : ETy) (k : Nat) : Nat := ceilDiv k (panelK t)

/-- Rows of a side: 128 of A, 64 of B. -/
def sideRows (isA : Bool) : Nat := if isA then 128 else 64

/-- Every segment address of an operand, panel by panel. -/
def segs (base pw : Word) (isA : Bool) (t : ETy) (k : Nat) : List Word :=
  (List.range (panels t k)).flatMap fun p => (List.range (sideRows isA)).map fun r => segAddr base pw r p

/-- Vector registers of a register operand (R183). -/
def opdRegs (isA : Bool) (t : ETy) (k : Nat) : Nat := ceilDiv (k * t.place) (if isA then 128 else 256)

/-- The read range of a scratchpad operand (R191). -/
def State.opdRange (s : State) (base pw : Word) (isA : Bool) (t : ETy) (k : Nat) : Range :=
  let l := (segs base pw isA t k).map fun a => fld a 51 0
  let lo := l.foldl min (l.headD 0)
  let hi := l.foldl max 0 + 63
  let x := s.span s.tile.ctxid base 1
  if pitchRot pw == 0 then ⟨x.dev, lo, hi⟩ else ⟨x.dev, lo / 512 * 512, hi / 512 * 512 + 511⟩

/-- An operand read at issue: its registers, or base and pitch word (R173, R185). -/
def State.opd (s : State) (m : MSrc) : MOpd :=
  match m with
  | .vreg r => .regs r
  | .pad r => .pad (s.sr r) (s.tile.regs.sreg (r.toNat + 1))

/-- The ILLEGAL checks of an operand (R185, R187, R339). -/
def opdIllegal (o : MOpd) (isA : Bool) (t : ETy) (k : Nat) : Bool :=
  match o with
  | .regs r => 32 < r.toNat + opdRegs isA t k
  | .pad base pw => fld pw 63 44 != 0 || pitchRot pw != 0 && (match spaceOf (fld base 51 0) with | .paged => true | _ => false)

/-- The MISALIGN check of an operand: base and pitches are multiples of 64. -/
def opdMisaligned (o : MOpd) : Option Word :=
  match o with
  | .regs _ => none
  | .pad base pw => if base.toNat % 64 != 0 || pitchRow pw % 64 != 0 || pitchTile pw % 64 != 0 then some base else none

/-- The place checks of an operand: cause and TVAL (R187, R339). -/
def State.opdPlace (s : State) (o : MOpd) (isA : Bool) (t : ETy) (k : Nat) : Option (Byte × Word) :=
  match o with
  | .regs _ => none
  | .pad base pw =>
    match s.device s.tile.ctxid (fld base 63 52) with
    | none => some (causeRouteBad, base)
    | some (.there ..) => some (causePagePerm, base)
    | some .here =>
      match spaceOf (fld base 51 0) with
      | .flat .. =>
        match (segs base pw isA t k).find? fun a =>
            match spaceOf (fld a 51 0) with
            | .flat sl off => (match s.flatPlace (s.tileAgent s.tileId) false sl off 64 a with | .ok _ => false | .error _ => true)
            | _ => true with
        | some a => some (causePagePerm, a)
        | none => none
      | .paged =>
        match (segs base pw isA t k).find? fun a => match spaceOf (fld a 51 0) with | .paged => false | _ => true with
        | some a => some (causePagePerm, a)
        | none => none
      | _ => some (causePagePerm, base)

/-- The checks of an MMA at issue (R339), and what it then does with its operands. -/
def mmaChecks (f : MmaF) (k : MOpd → MOpd → Nat → State → Act) (s : State) : Act :=
  let kk := (s.sr f.k).toNat
  let a := s.opd f.a
  let b := s.opd f.b
  let ta := f.pair.tyA
  let tb := f.pair.tyB
  if kk == 0 || 4096 < kk || kk % 16 != 0 || opdIllegal a true ta kk || opdIllegal b false tb kk then illegal s
  else
    match opdMisaligned a, opdMisaligned b with
    | some v, _ => .trap causeMisalign v
    | none, some v => .trap causeMisalign v
    | none, none =>
      match s.opdPlace a true ta kk, s.opdPlace b false tb kk with
      | some (c, v), _ => .trap c v
      | none, some (c, v) => .trap c v
      | none, none => k a b kk s

/-- The window register of an accumulator as captured (R147, R157; DEDUCED, log 120). -/
def State.accWindow (s : State) (acc : Bool) : Word := vget s.tile.iw.caps.accw (if acc then 1 else 0)

/-- The read ranges of an MMA (R191). -/
def State.mmaRanges (s : State) (f : MmaF) (a b : MOpd) (k : Nat) : List Range :=
  (match a with | .pad base pw => [s.opdRange base pw true f.pair.tyA k] | .regs _ => [])
    ++ (match b with | .pad base pw => [s.opdRange base pw false f.pair.tyB k] | .regs _ => [])

/-- MMA (R338, R339). -/
def execMma (h : Hdr) (f : MmaF) (s : State) : Host.Outcome State Fault Refusal :=
  issue .M 1 h (fun s => mmaChecks f (fun a b k s =>
    queueCmd (s.command (.mma f.acc a b k f.pair f.zero f.twin) (s.accWindow f.acc) (s.mmaRanges f a b k) []) id s) s) s

/-- MZERO (R348). -/
def execMzero (h : Hdr) (acc : Bool) (s : State) : Host.Outcome State Fault Refusal :=
  issue .M 1 h (fun s => queueCmd (s.command (.mzero acc) (s.accWindow acc) [] []) id s) s

/-- MDRAIN (R336, R337): its registers are pending from issue. -/
def execMdrain (h : Hdr) (acc : Bool) (vd : VReg) (ty : ETy) (rm : Rm) (s : State) : Host.Outcome State Fault Refusal :=
  issue .M 1 h (fun s => queueCmd (s.command (.mdrain acc vd ty rm) (s.accWindow acc) [] []) id s) s

/-- Bytes of a row of 64 entries in an output form (R190). -/
def outRow : OutTy → Nat
  | .raw => 64 * 32
  | .ty t => bytesOf t 64

/-- MSTORE (R343). -/
def execMstore (h : Hdr) (acc : Bool) (a b : SReg) (ty : OutTy) (rm : Rm) (s : State) : Host.Outcome State Fault Refusal :=
  issue .M 1 h (fun s =>
    let base := s.sr a
    let rp := fld (s.sr b) 19 0
    let n := 127 * rp + outRow ty
    if fld (s.sr b) 63 20 != 0 then illegal s
    else if base.toNat % 32 != 0 || rp % 32 != 0 then .trap causeMisalign base
    else
      let go := queueCmd (s.command (.mstore acc base rp ty rm) (s.accWindow acc) [] [s.span s.tile.ctxid base n]) id s
      match s.device s.tile.ctxid (fld base 63 52) with
      | none => .trap causeRouteBad base
      | some (.there ..) => .trap causePagePerm base
      | some .here =>
        match spaceOf (fld base 51 0) with
        | .flat sl off =>
          match s.flatPlace (s.tileAgent s.tileId) false sl off n base with
          | .ok _ => go
          | .error b => b.act s
        | .paged => if 2 ^ 52 < fld base 51 0 + n then .trap causePagePerm base else go
        | _ => .trap causePagePerm base) s

/-- MTILE (R345). -/
def execMtile (h : Hdr) (acc : Bool) (s : State) : Host.Outcome State Fault Refusal :=
  issue .M 1 h (fun s => queueCmd (s.command (.mtile acc) (s.accWindow acc) [] []) id s) s

end Sys2Proof.Machine
end

