-- ==== Sys2Proof/Machine/Copy.lean ====
section
/-! DEFINITION. Copy words at issue: COPY, COPYM, GATH and SCAT (R195 to R200, R313 to R315, R325, R326). -/

namespace Sys2Proof.Machine
open Sys2Proof

/-- The place check of `n` bytes by a core word or an engine, of whichever device, the bounds of flat SRAM for this one (R102, R103,
R196, R395): none is good. -/
def State.sideBad (s : State) (core : Bool) (ga : Word) (n : Nat) : Option (Byte × Word) :=
  match spaceOf (fld ga 51 0) with
  | .flat sl off =>
    match s.device s.tile.ctxid (fld ga 63 52) with
    | some .here => (match s.flatPlace (s.tileAgent s.tileId) core sl off n ga with | .ok _ => none | .error _ => some (causePagePerm, ga))
    | _ => none
  | .paged => if 2 ^ 52 < fld ga 51 0 + n then some (causePagePerm, ga) else none
  | _ => some (causePagePerm, ga)

/-- Whether an address names another device. -/
def State.isAway (s : State) (ga : Word) : Bool :=
  match s.device s.tile.ctxid (fld ga 63 52) with
  | some (.there ..) => true
  | _ => false

/-- Whether an address names a device-table entry that is not valid. -/
def State.badDevice (s : State) (ga : Word) : Bool := (s.device s.tile.ctxid (fld ga 63 52)).isNone

/-- Whether an address is flat SRAM, of whichever device. -/
def isFlatAddr (ga : Word) : Bool := match spaceOf (fld ga 51 0) with | .flat .. => true | _ => false

/-- The check of a barrier, or of a future (R197). -/
def State.barrierBad (s : State) (bar : Option Word) (fut : Bool) : Option (Byte × Word) :=
  match bar with
  | none => none
  | some ga =>
    if ga.toNat % (if fut then 16 else 8) != 0 then some (causeMisalign, ga)
    else
      match s.device s.tile.ctxid (fld ga 63 52) with
      | some .here =>
        match spaceOf (fld ga 51 0) with
        | .flat .. => s.sideBad false ga (if fut then 16 else 8)
        | .paged => if fut then none else some (causePagePerm, ga)
        | _ => some (causePagePerm, ga)
      | _ => some (causePagePerm, ga)

/-- The barrier register of a copy, read at issue; 0 names none (R197). -/
def State.barrier (s : State) (r : SReg) : Option Word := if r == 0 then none else some (s.sr r)

/-- Bytes of an element of the named type of a converting copy (R198). -/
def pathBytes : CPath → Nat
  | .plain => 1 | .f32 => 4 | .bf16 => 2

/-- Bytes on each side of a copy as far as the word alone tells: (source, destination) (R196, R314). -/
def copyBytes (p : CPath) (len : Nat) : Nat × Nat := (len * pathBytes p, len * pathBytes p)

/-- Take a transfer identifier of a channel: it lands in s[d] after 2 tc (R195). -/
def State.takeTid (s : State) (h : Hdr) (d : SReg) (ch : BitVec 2) : BitVec 48 × State :=
  let id := vget s.tile.regs.next ch.toNat
  let s := s.onTile fun t => { t with regs := { t.regs with next := vset t.regs.next ch.toNat (id + 1) } }
  (id, s.result h 1 2 (.sreg d (zext64 id)) 0)

/-- The read range of a copy (R314). -/
def State.copyRead (s : State) (p : CPath) (src : Word) (len : Nat) : List Range :=
  if len == 0 then []
  else if p != .plain && !isFlatAddr src then
    let x := s.span s.tile.ctxid src 1
    [⟨x.dev, fld src 51 0 / 0x10000 * 0x10000, (fld src 51 0 + 4 * len - 1) / 0x10000 * 0x10000 + 0xFFFF⟩]
  else [s.span s.tile.ctxid src (copyBytes p len).1]

/-- The write range of a copy (R314). -/
def State.copyWrite (s : State) (p : CPath) (dst : Word) (len : Nat) : List Range :=
  if len == 0 then [] else [s.span s.tile.ctxid dst (copyBytes p len).2]

/-- The first of several failures. -/
def firstBad : List (Option (Byte × Word)) → Option (Byte × Word)
  | [] => none
  | some x :: _ => some x
  | none :: r => firstBad r

/-- The checks of a COPY at issue in the order of R196 to R198, and its command. -/
def copyChecks (f : CopyF) (k : Cmd → State → Act) (s : State) : Act :=
  let dst := s.sr f.dst
  let src := s.sr f.src
  let len := fld (s.sr f.len) 39 0
  let bar := s.barrier f.bar
  let z := pathBytes f.path
  if fld (s.sr f.len) 63 40 != 0 || s.isAway dst && s.isAway src then illegal s
  else
    let route := fun (ga : Word) => if s.badDevice ga then some (causeRouteBad, ga) else none
    let align := fun (ga : Word) => if isFlatAddr ga && ga.toNat % z != 0 then some (causeMisalign, ga) else none
    match firstBad [s.sideBad false src (copyBytes f.path len).1, s.sideBad false dst (copyBytes f.path len).2, route src, route dst,
        s.barrierBad bar f.fut, align src, align dst] with
    | some (c, v) => .trap c v
    | none =>
      let c := s.command (.copy dst src len f.path) 0 (s.copyRead f.path src len) (s.copyWrite f.path dst len)
      k { c with ch := f.ch, bar := bar, fut := f.fut } s

/-- COPY (R313). -/
def execCopy (h : Hdr) (f : CopyF) (s : State) : Host.Outcome State Fault Refusal :=
  issue .A 1 h (fun s => copyChecks f (fun c s =>
    queueCmd { c with tid := vget s.tile.regs.next f.ch.toNat } (fun s => (s.takeTid h f.d f.ch).2) s) s) s

/-- COPYM (R315): the copy's checks, then those of its MMA; the command carries the follow-on and both footprints. -/
def execCopym (h : Hdr) (f : CopyF) (m : MmaF) (s : State) : Host.Outcome State Fault Refusal :=
  issueW .A 1 2 h (fun s => copyChecks f (fun c s => mmaChecks m (fun a b k s =>
    queueCmd { c with tid := vget s.tile.regs.next f.ch.toNat, follow := some (.mma m.acc a b k m.pair m.zero m.twin),
                      window := s.accWindow m.acc, rd := c.rd ++ s.mmaRanges m a b k }
      (fun s => (s.takeTid h f.d f.ch).2) s) s) s) s

/-! ### Gather and scatter (R200, R325, R326) -/

/-- Bytes of an element of GATH or SCAT. -/
def gsizeBytes : GSize → Nat
  | .e4 => 4 | .e8 => 8 | .e16 => 16 | .e32 => 32 | .e64 => 64

/-- The check of one element at `off` bytes from a base (R326). -/
def State.elemBad (s : State) (base : Word) (off : Int) (n : Nat) : Option (Byte × Word) :=
  let a : Int := fld base 51 0 + off
  let ga := BitVec.ofInt 64 ((base.toNat : Int) + off)
  if a < 0 || (2 ^ 52 : Int) < a + n then some (causePagePerm, ga)
  else s.sideBad false ga n

/-- The index span of a vector in bytes from a base: least and greatest element. -/
def idxSpan (idx : List Int) (n : Nat) : Int × Int :=
  (idx.foldl min (idx.headD 0) * n, idx.foldl max (idx.headD 0) * n + n - 1)

/-- A range of an indexed side (R325). -/
def State.idxRange (s : State) (base : Word) (idx : List Int) (n : Nat) : Range :=
  let (lo, hi) := idxSpan idx n
  let x := s.span s.tile.ctxid base 1
  ⟨x.dev, (fld base 51 0 + lo).toNat, (fld base 51 0 + hi).toNat⟩

/-- GATH (`scat` false) and SCAT at issue. -/
def gatherAct (h : Hdr) (f : GathF) (scat : Bool) (s : State) : Act :=
  let sh := shapeOf s.tile.iw.caps.vshape
  let n := gsizeBytes f.size
  let dst := s.sr f.dst
  let src := s.sr f.src
  let bar := s.barrier f.bar
  if sh.ty != .i32 then illegal s
  else
    let x := s.tile.vecAt f.idx.toNat s.now
    let idx := (List.range sh.n).map fun m => signedOf 32 (elemAt x .i32 m)
    let seqs := (List.range sh.n).map fun (m : Nat) => (m : Int)
    let mis := fun (ga : Word) (k : Nat) => if ga.toNat % k != 0 then some (causeMisalign, ga) else none
    let elems := fun (base : Word) (l : List Int) => firstBad (l.map fun m => s.elemBad base (m * n) n)
    match firstBad [mis src n, mis dst n, bar.bind fun b => mis b (if f.fut then 16 else 8),
        elems src (if scat then seqs else idx), elems dst (if scat then idx else seqs), s.barrierBad bar f.fut] with
    | some (c, v) => .trap c v
    | none =>
      if s.isAway dst && s.isAway src then illegal s
      else if s.badDevice src then .trap causeRouteBad src
      else if s.badDevice dst then .trap causeRouteBad dst
      else
        let lin := fun (base : Word) => s.span s.tile.ctxid base (sh.n * n)
        let rd := if scat then lin src else s.idxRange src idx n
        let wr := if scat then s.idxRange dst idx n else lin dst
        let c := s.command (if scat then .scat dst src idx n else .gath dst src idx n) 0 [rd] [wr]
        queueCmd { c with ch := f.ch, tid := vget s.tile.regs.next f.ch.toNat, bar := bar, fut := f.fut }
          (fun s => (s.takeTid h f.d f.ch).2) s

/-- GATH (R325). -/
def execGath (h : Hdr) (f : GathF) (s : State) : Host.Outcome State Fault Refusal := issue .A 1 h (gatherAct h f false) s

/-- SCAT (R325). -/
def execScat (h : Hdr) (f : GathF) (s : State) : Host.Outcome State Fault Refusal := issue .A 1 h (gatherAct h f true) s

end Sys2Proof.Machine
end

