-- ==== Sys2Proof/Machine/VecElem.lean ====
section
/-! DEFINITION. Element-wise words of the V engine, comparison, selection and conversion (R381 to R391, R396, R407). -/

namespace Sys2Proof.Machine
open Sys2Proof

/-! ### Common to vector words (R381, R382) -/

/-- The captured shape and FPCTL of the word that issues. -/
def State.shape (s : State) : Shape := shapeOf s.tile.iw.caps.vshape
def State.fpc (s : State) : Word := s.tile.iw.caps.fpctl

/-- The type field of a word: 0xF, or the captured type (R169). -/
def typeOk (ty : Option ETy) (sh : Shape) : Bool := match ty with | none => true | some t => t == sh.ty

/-- A word of V: its type field, then its own checks and effect (R175, R381). -/
def vWord (h : Hdr) (ty : Option ETy) (occ : Shape → Nat) (body : State → Act) (s : State) : Host.Outcome State Fault Refusal :=
  issue .V (occ s.shape) h (fun s => if typeOk ty s.shape then body s else illegal s) s

/-- Whether the mask lets column `c` of an element through (R67). -/
def maskBit (m : BitVec 512) (sh : Shape) (e : Nat) : Bool := m.getLsbD (e % sh.cols)

/-- Union of flags. -/
def orAll (l : List FFlags) : FFlags := l.foldl (fun a f => a ||| f) 0

/-- The cycle in which group `g` of a word that issues now lands (R74). -/
def State.landAt (s : State) (h : Hdr) (occ lat g : Nat) : Nat := s.now + (if h.v then 2 * occ else 0) + g + lat

/-- A per-group result: `f g e` is element `e` of group `g` with its flags, none where it is masked off (R74, R385). -/
def State.perGroup (s : State) (h : Hdr) (lat : Nat) (vd : VReg) (dty : ETy) (f : Nat → Nat → Option (Nat × FFlags)) : State :=
  let sh := s.shape
  (List.range sh.groups).foldl (fun s g =>
    let fg := f g
    let rs := (groupElems sh g).filterMap fun e => (fg e).map fun r => (e, r.1, r.2)
    if rs.isEmpty then s
    else
      let (x, en) := placeElems dty (rs.map fun r => (r.1, r.2.1))
      s.onTile fun t => t.result h.v (s.landAt h sh.groups lat g) (.vec vd x en) (orAll (rs.map (·.2.2))) dty.place) s

/-- A whole-tile result (R74). -/
def State.whole (s : State) (h : Hdr) (occ lat : Nat) (d : Dest) (f : FFlags) (w : Nat := 32) : State :=
  s.onTile fun t => t.result h.v (s.landAt h occ lat (occ - 1)) d f w

/-- A source register as group `g` of the word that issues reads it (R381). -/
def State.vgroup (s : State) (r : VReg) (g : Nat) : BitVec 16384 := s.tile.vecAt r.toNat (s.now + g)

/-- A mask as the word that issues reads it. -/
def State.vmask (s : State) (m : MReg) : BitVec 512 := s.tile.maskAt m.toNat s.now

/-- Element `e` of a source by whole-tile access: from its own group (R381). -/
def State.velem (s : State) (r : VReg) (t : ETy) (sh : Shape) (e : Nat) : Nat :=
  elemAt (s.vgroup r (e / (4096 / sh.ty.place))) t e

/-! ### Element operations (R384 to R387) -/

/-- The element-wise operations. -/
inductive EOp
  | add | sub | mul | fma | min | max | div | abs | neg | sqrt | rcp | rsq | exp2 | log2 | tanh | sigm
  | and | or | xor | shl | shr
deriving DecidableEq, Repr

/-- The class of T that an operation takes (R384). -/
def EOp.classOk : EOp → ETy → Bool
  | .and, _ | .or, _ | .xor, _ => true
  | .shl, t | .shr, t => t.isInt
  | .div, t | .sqrt, t | .rcp, t | .rsq, t | .exp2, t | .log2, t | .tanh, t | .sigm, t => t.isFloat
  | _, t => t.isFloat || t.isInt

/-- Latency (R74, R384). -/
def EOp.latency : EOp → Nat
  | .and | .or | .xor | .shl | .shr => 2
  | .rcp | .rsq | .exp2 | .log2 | .tanh | .sigm => 12
  | .div | .sqrt => 16
  | _ => 4

/-- The exact integer result (R385); shifts take their count modulo the width, and AR is `sat` (R387). -/
def intOp (op : EOp) (sat : Bool) (w x y z : Nat) : Int :=
  let a := signedOf w x
  let b := signedOf w y
  match op with
  | .add => a + b
  | .sub => a - b
  | .mul => a * b
  | .fma => a * b + signedOf w z
  | .min => if a < b then a else b
  | .max => if a < b then b else a
  | .abs => a.natAbs
  | .neg => -a
  | .shl => (x % 2 ^ w * 2 ^ (y % w) : Nat)
  | .shr => if sat then a / (2 ^ (y % w) : Nat) else (x % 2 ^ w / 2 ^ (y % w) : Nat)
  | _ => a

/-- The lesser or greater of two floating inputs, by code (R150, R386). (DEDUCED, log 48) -/
def fMinMax (t : ETy) (mx : Bool) (xc yc : Nat) : Nat × FFlags :=
  let x := elemValue t xc
  let y := elemValue t yc
  let f := FFlags.when (x.isSig || y.isSig) FFlags.nv
  if x.isNan && y.isNan then (t.nanCode, f)
  else if x.isNan then (yc, f)
  else if y.isNan then (xc, f)
  else if mx then (if x.ltZ y then yc else xc, f)
  else (if y.ltZ x then yc else xc, f)

/-- FloatOp (R386) on codes as read, with FOZ (R149). -/
def floatOp (op : EOp) (t : ETy) (fpctl : Word) (xc yc zc : Nat) : Nat × FFlags :=
  let rm := fpRm fpctl
  let foz := fpFoz fpctl
  let x := elemValue t xc
  let y := elemValue t yc
  let z := elemValue t zc
  let sgn := 2 ^ (t.width - 1)
  let rnd := fun (r : FVal × FFlags) => let q := roundTo t rm foz r.1; (q.1, q.2 ||| r.2)
  match op with
  | .add => rnd (fAdd (Config.zeroSumNeg rm xc yc 0) x y)
  | .sub => rnd (fAdd (Config.zeroSumNeg rm xc (yc ^^^ sgn) 0) x y.negate)
  | .mul => rnd (fMul x y)
  | .fma => rnd (fFma (Config.zeroSumNeg rm xc yc zc) x y z)
  | .div => rnd (fDiv x y)
  | .min => fozCode t foz (fMinMax t false xc yc)
  | .max => fozCode t foz (fMinMax t true xc yc)
  | .abs => fozCode t foz (xc % sgn, 0)
  | .neg => fozCode t foz (xc ^^^ sgn, 0)
  | .sqrt => rnd (fSqrt x)
  | .rcp => rnd (fRcp x)
  | .rsq => rnd (fRsq x)
  | .exp2 => rnd (fExp2 x)
  | .log2 => rnd (fLog2 x)
  | .tanh => rnd (fTanh x)
  | .sigm => rnd (fSigm x)
  | _ => (xc, 0)

/-- One element of an element-wise word (R385). -/
def elemOp (op : EOp) (t : ETy) (sat : Bool) (fpctl : Word) (xc yc zc : Nat) : Nat × FFlags :=
  match op with
  | .and => (xc &&& yc, 0)
  | .or => (xc ||| yc, 0)
  | .xor => (xc ^^^ yc, 0)
  | _ =>
    if t.isInt then
      let w := t.width
      let q := intOp op sat w xc yc zc
      let sh := op == .shl || op == .shr
      (wrapInt w (if sat && !sh then clampInt q (-(2 ^ (w - 1) : Nat)) (2 ^ (w - 1) - 1 : Nat) else q), 0)
    else
      let r := fun c => fizCode t (fpFiz fpctl) c
      floatOp op t fpctl (r xc) (r yc) (r zc)

/-- An element-wise word (R384, R385); `f.f` is SAT, or AR of VSHR. -/
def elemWord (op : EOp) (h : Hdr) (f : VF) (s : State) : Host.Outcome State Fault Refusal :=
  vWord h f.ty (·.groups) (fun s =>
    let t := s.shape.ty
    if !op.classOk t || f.f && !t.isInt then illegal s
    else
      let m := s.vmask f.mask
      .done (s.perGroup h op.latency f.vd t fun g =>
        let a := s.vgroup f.va g
        let b := s.vgroup f.vb g
        let c := s.vgroup f.vc g
        fun e => if maskBit m s.shape e then some (elemOp op t f.f s.fpc (elemAt a t e) (elemAt b t e) (elemAt c t e)) else none)) s

/-- VADD (R384). -/
def execVadd (h : Hdr) (f : VF) (s : State) : Host.Outcome State Fault Refusal := elemWord .add h f s
/-- VSUB (R384). -/
def execVsub (h : Hdr) (f : VF) (s : State) : Host.Outcome State Fault Refusal := elemWord .sub h f s
/-- VMUL (R384). -/
def execVmul (h : Hdr) (f : VF) (s : State) : Host.Outcome State Fault Refusal := elemWord .mul h f s
/-- VFMA (R384). -/
def execVfma (h : Hdr) (f : VF) (s : State) : Host.Outcome State Fault Refusal := elemWord .fma h f s
/-- VMIN (R384). -/
def execVmin (h : Hdr) (f : VF) (s : State) : Host.Outcome State Fault Refusal := elemWord .min h f s
/-- VMAX (R384). -/
def execVmax (h : Hdr) (f : VF) (s : State) : Host.Outcome State Fault Refusal := elemWord .max h f s
/-- VDIV (R384). -/
def execVdiv (h : Hdr) (f : VF) (s : State) : Host.Outcome State Fault Refusal := elemWord .div h f s
/-- VABS (R384). -/
def execVabs (h : Hdr) (f : VF) (s : State) : Host.Outcome State Fault Refusal := elemWord .abs h f s
/-- VNEG (R384). -/
def execVneg (h : Hdr) (f : VF) (s : State) : Host.Outcome State Fault Refusal := elemWord .neg h f s
/-- VSQRT (R384). -/
def execVsqrt (h : Hdr) (f : VF) (s : State) : Host.Outcome State Fault Refusal := elemWord .sqrt h f s
/-- VRCP (R384). -/
def execVrcp (h : Hdr) (f : VF) (s : State) : Host.Outcome State Fault Refusal := elemWord .rcp h f s
/-- VRSQ (R384). -/
def execVrsq (h : Hdr) (f : VF) (s : State) : Host.Outcome State Fault Refusal := elemWord .rsq h f s
/-- VEXP2 (R384). -/
def execVexp2 (h : Hdr) (f : VF) (s : State) : Host.Outcome State Fault Refusal := elemWord .exp2 h f s
/-- VLOG2 (R384). -/
def execVlog2 (h : Hdr) (f : VF) (s : State) : Host.Outcome State Fault Refusal := elemWord .log2 h f s
/-- VTANH (R384). -/
def execVtanh (h : Hdr) (f : VF) (s : State) : Host.Outcome State Fault Refusal := elemWord .tanh h f s
/-- VSIGM (R384). -/
def execVsigm (h : Hdr) (f : VF) (s : State) : Host.Outcome State Fault Refusal := elemWord .sigm h f s
/-- VAND (R384). -/
def execVand (h : Hdr) (f : VF) (s : State) : Host.Outcome State Fault Refusal := elemWord .and h f s
/-- VOR (R384). -/
def execVor (h : Hdr) (f : VF) (s : State) : Host.Outcome State Fault Refusal := elemWord .or h f s
/-- VXOR (R384). -/
def execVxor (h : Hdr) (f : VF) (s : State) : Host.Outcome State Fault Refusal := elemWord .xor h f s
/-- VSHL (R387). -/
def execVshl (h : Hdr) (f : VF) (s : State) : Host.Outcome State Fault Refusal := elemWord .shl h f s
/-- VSHR (R387). -/
def execVshr (h : Hdr) (f : VF) (s : State) : Host.Outcome State Fault Refusal := elemWord .shr h f s

/-! ### Broadcast, iota, selection, comparison, masks -/

/-- VBCAST (R388). -/
def execVbcast (h : Hdr) (vd : VReg) (r : VReg) (mask : MReg) (ty : Option ETy) (s : State) : Host.Outcome State Fault Refusal :=
  vWord h ty (·.groups) (fun s =>
    let m := s.vmask mask
    let x := (s.srv r).toNat
    .done (s.perGroup h 2 vd s.shape.ty fun _ e => if maskBit m s.shape e then some (x % 2 ^ s.shape.ty.width, 0) else none)) s

/-- VIOTA (R391). -/
def execViota (h : Hdr) (vd : VReg) (mask : MReg) (ty : Option ETy) (s : State) : Host.Outcome State Fault Refusal :=
  vWord h ty (·.groups) (fun s =>
    let t := s.shape.ty
    if !(t.isFloat || t.isInt) then illegal s
    else
      let m := s.vmask mask
      .done (s.perGroup h 2 vd t fun _ e =>
        if maskBit m s.shape e then
          some (if t.isInt then (e % 2 ^ t.width, 0) else roundTo t (fpRm s.fpc) (fpFoz s.fpc) (FVal.ofInt e))
        else none)) s

/-- VSEL (R407). -/
def execVsel (h : Hdr) (vd va vb : VReg) (ms : MReg) (mask : MReg) (ty : Option ETy) (s : State) : Host.Outcome State Fault Refusal :=
  vWord h ty (·.groups) (fun s =>
    let t := s.shape.ty
    let m := s.vmask mask
    let sel := s.vmask ms
    .done (s.perGroup h 2 vd t fun g =>
      let a := s.vgroup va g
      let b := s.vgroup vb g
      fun e =>
        if maskBit m s.shape e then some (if maskBit sel s.shape e then (elemAt a t e, 0) else (elemAt b t e, 0)) else none)) s

/-- Cond of VCMP on two codes, with the flag of a signalling NaN (R389). -/
def vcondHolds (c : VCond) (t : ETy) (fiz : Bool) (xc yc : Nat) : Bool × FFlags :=
  let x := elemValue t (fizCode t fiz xc)
  let y := elemValue t (fizCode t fiz yc)
  let un := x.isNan || y.isNan
  (match c with
    | .eq => x.eq y | .ne => !x.eq y | .lt => x.lt y | .le => !un && !y.lt x | .gt => y.lt x | .ge => !un && !x.lt y | .unord => un,
   FFlags.when (x.isSig || y.isSig) FFlags.nv)

/-- VCMP (R389). -/
def execVcmp (h : Hdr) (md : MReg) (va vb : VReg) (mask : MReg) (ty : Option ETy) (c : VCond) (s : State) : Host.Outcome State Fault Refusal :=
  vWord h ty (·.groups) (fun s =>
    let sh := s.shape
    let t := sh.ty
    if !(t.isFloat || t.isInt) then illegal s
    else
      let m := s.vmask mask
      let cols := (List.range sh.cols).filter fun k => m.getLsbD k
      let rs := cols.map fun k =>
        let l := (List.range sh.rows).map fun r =>
          let e := r * sh.cols + k
          vcondHolds c t (fpFiz s.fpc) (s.velem va t sh e) (s.velem vb t sh e)
        (k, l.all (·.1), orAll (l.map (·.2)))
      let x := rs.foldl (fun (a : Nat) r => if r.2.1 then a + 2 ^ r.1 else a) 0
      let en := rs.foldl (fun (a : Nat) r => a + 2 ^ r.1) (2 ^ 512 - 2 ^ sh.cols)
      .done (s.whole h sh.groups 4 (.mask md (BitVec.ofNat 512 x) (BitVec.ofNat 512 en)) (orAll (rs.map (·.2.2))))) s

/-- The 512 bits of a VMASK operation (R396). -/
def maskOp (op : VMaskOp) (s : State) : BitVec 512 :=
  match op with
  | .and a b => s.vmask a &&& s.vmask b
  | .or a b => s.vmask a ||| s.vmask b
  | .xor a b => s.vmask a ^^^ s.vmask b
  | .andn a b => s.vmask a &&& ~~~(s.vmask b)
  | .not a => ~~~(s.vmask a)
  | .first r => BitVec.ofNat 512 (2 ^ min (s.srv r).toNat 512 - 1)
  | .ones => BitVec.allOnes 512

/-- VMASK (R396). -/
def execVmask (h : Hdr) (md : MReg) (op : VMaskOp) (ty : Option ETy) (s : State) : Host.Outcome State Fault Refusal :=
  vWord h ty (fun _ => 1) (fun s => .done (s.whole h 1 2 (.mask md (maskOp op s) (BitVec.allOnes 512)) 0)) s

/-! ### Conversion (R390) -/

/-- VCVT: each element decoded exactly from T and rounded to U. -/
def execVcvt (h : Hdr) (vd va : VReg) (mask : MReg) (dty : ETy) (s : State) : Host.Outcome State Fault Refusal :=
  vWord h none (·.groups) (fun s =>
    let sh := s.shape
    let t := sh.ty
    if dty == t || 2048 < bytesOf dty sh.n then illegal s
    else
      let m := s.vmask mask
      .done (s.perGroup h 6 vd dty fun g =>
        let a := s.vgroup va g
        fun e =>
          if maskBit m sh e then
            let (x, f) := inValue t (fpFiz s.fpc) (elemAt a t e)
            let r := roundTo dty (fpRm s.fpc) (fpFoz s.fpc) x
            some (r.1, r.2 ||| f)
          else none)) s

end Sys2Proof.Machine
end

