-- ==== Sys2Proof/Machine/Page.lean ====
section
/-! DEFINITION. Typed pages: the layout of data and side areas (R129) and the decoding of elements in memory (R131, R144). -/

namespace Sys2Proof.Machine
open Sys2Proof

/-- The element type of a page format; none for raw (R126). -/
def fmtTy (f : Nat) : Option ETy := if f == 0 then none else tyOf (f - 1)

/-- The layout of a narrow page (R129): element width, block length, outlier capacity, blocks, end of the data area, and
whether scales are E4M3. -/
structure Geo where
  e : Nat
  b : Nat
  c : Nat
  nb : Nat
  dataEnd : Nat
  e4 : Bool
deriving DecidableEq, Repr

/-- The layout of the page of a leaf (R129). -/
def Leaf.geo (l : Leaf) : Geo :=
  let e := if l.fmt == 5 then 4 else 8
  let b := 16 * 2 ^ fld l.w1 59 58
  let c := match fld l.w1 56 55 with | 0 => 0 | 1 => 2 | _ => 4
  let db := b * e / 8
  let sb := 1 + 4 * c
  let nb := l.size / (64 * (db + sb)) * 64
  ⟨e, b, c, nb, nb * db, bitAt l.w1 57⟩

/-- Whether a page has blocks, scales and a side area. -/
def Leaf.narrow (l : Leaf) : Bool := 3 ≤ l.fmt

/-- The physical address of the first byte of the page that holds `pa`. -/
def Leaf.base (l : Leaf) (pa : Nat) : Nat := pa / l.size * l.size

/-- The side-area bytes that belong to block `n` of a page at `pb`: its scale and its outlier entries (R129). -/
def Leaf.side (l : Leaf) (pb n : Nat) : List (Nat × Nat) :=
  let g := l.geo
  (pb + g.dataEnd + n, 1) :: (if g.c == 0 then [] else [(pb + g.dataEnd + g.nb + n * g.c * 4, g.c * 4)])

/-- The outlier entries of block `n`, as (used, position, value). -/
def Leaf.outliers (l : Leaf) (rd : Nat → Nat → Nat) (pb n : Nat) : List (Bool × Nat × Nat) :=
  let g := l.geo
  (List.range g.c).map fun j =>
    let x := rd (pb + g.dataEnd + g.nb + (n * g.c + j) * 4) 4
    (x / 2 ^ 31 % 2 == 1, x / 2 ^ 16 % 64, x % 2 ^ 16)

/-- The scale of block `n` (R143). -/
def Leaf.scale (l : Leaf) (rd : Nat → Nat → Nat) (pb n : Nat) : Scale :=
  let g := l.geo
  scaleOf g.e4 (rd (pb + g.dataEnd + n) 1)

/-- The code of element `i` of a narrow page (R129). -/
def Leaf.code (l : Leaf) (rd : Nat → Nat → Nat) (pb i : Nat) : Nat :=
  let e := l.geo.e
  rd (pb + i * e / 8) 1 / 2 ^ (i * e % 8) % 2 ^ e

/-- DecodeElem of element `i` of a narrow page (R144). -/
def Leaf.decode (l : Leaf) (rd : Nat → Nat → Nat) (pb i : Nat) : FVal × FFlags :=
  let g := l.geo
  let n := i / g.b
  decodeElem ((fmtTy l.fmt).getD .i8) (l.code rd pb i) (i % g.b) (l.scale rd pb n) (l.outliers rd pb n)

/-- Whether VLD (`load`) or VST takes a page format under a type (R131). -/
def fmtOk (load : Bool) (fmt : Nat) (t : ETy) : Bool :=
  fmt == 0 || fmtTy fmt == some t || load && (fmt == 2 && t == .f32 || 3 ≤ fmt && t.isFloat)

/-- Bits of an element in memory under a page format (R392). -/
def memBits (fmt : Nat) (t : ETy) : Nat := ((fmtTy fmt).getD t).place

/-- Whether a load decodes with scales and outliers (R393). -/
def decodes (fmt : Nat) (t : ETy) : Bool := 3 ≤ fmt && fmtTy fmt != some t

end Sys2Proof.Machine
end

