-- ==== Sys2Proof/Machine/VecMem.lean ====
section
/-! DEFINITION. Vector loads and stores: VLD, VLDS, VST, VSTS (R392 to R395). -/

namespace Sys2Proof.Machine
open Sys2Proof

/-- A run of elements at an address: a row of VLDS or VSTS, the whole tile of VLD or VST. -/
structure Row where
  addr : Word
  first : Nat
  count : Nat
deriving DecidableEq, Repr

/-- The base address of a vector access (R392). -/
def State.vbase (s : State) (f : VMemF) : Word := s.srv f.base + sext64 f.disp <<< 6

/-- The runs of a vector access in ascending row order. -/
def State.vrows (s : State) (f : VMemF) (strided : Bool) : List Row :=
  let sh := s.shape
  if strided then
    (List.range sh.rows).map fun r => ⟨s.vbase f + BitVec.ofNat 64 r * s.srv f.stride, r * sh.cols, sh.cols⟩
  else [⟨s.vbase f, 0, sh.n⟩]

/-- Bytes of a run of `n` elements of `m` bits. -/
def runBytes (n m : Nat) : Nat := ceilDiv (n * m) 8

/-- The MISALIGN check of R395: bases and strides, and no row in a control window. -/
def State.vMisaligned (s : State) (f : VMemF) (strided : Bool) (t : ETy) : Option Word :=
  if (s.vbase f).toNat % 64 != 0 || strided && (s.srv f.stride).toNat % 64 != 0 then some (s.vbase f)
  else ((s.vrows f strided).find? fun r =>
    isWindow r.addr || isWindow (r.addr + BitVec.ofNat 64 (runBytes r.count t.place - 1))).map (·.addr)

/-- The PAGE_PERM check of R395 on one run. -/
def State.rowPerm (s : State) (t : ETy) (r : Row) : Bool :=
  (s.sideBad true r.addr (runBytes r.count t.place)).isSome

/-- The precise checks of a vector access (R395). -/
def State.vPrecise (s : State) (f : VMemF) (strided : Bool) : Option (Byte × Word) :=
  let t := s.shape.ty
  match s.vMisaligned f strided t with
  | some v => some (causeMisalign, v)
  | none =>
    let rows := s.vrows f strided
    match rows.find? fun r => s.rowPerm t r with
    | some r => some (causePagePerm, r.addr)
    | none =>
      match rows.find? fun r => s.badDevice r.addr with
      | some r => some (causeRouteBad, r.addr)
      | none => none

/-- A run with its pieces: bits per element in memory, and the page format. -/
structure Plan where
  row : Row
  m : Nat
  fmt : Nat
  segs : List Seg
deriving DecidableEq, Repr

/-- The pages that a run of type T takes (R131): one that is decoded is not read at or beyond the end of its data area. -/
def runOk (load : Bool) (t : ETy) : PathOk := fun l pa n =>
  fmtOk load l.fmt t && !(decodes l.fmt t && decide (l.geo.dataEnd < pa + n - l.base pa))

/-- Plan one run: its pages in ascending order, each with its format (R130, R131).  A run whose pages differ in format is
PAGE_FORMAT (DEDUCED, log 20). (DEDUCED, log 22) -/
def planRow (load : Bool) (t : ETy) (r : Row) : M (Except Bad Plan) := do
  let s ← get
  let g := s.tileAgent s.tileId
  let use := if load then Use.rd else Use.wr
  match ← place g true r.addr 1 use (runOk load t) with
  | .error b => return .error b
  | .ok p =>
    let fmt := p.fmt
    let m := memBits fmt t
    match ← places g true r.addr (runBytes r.count m) use (fun l pa n => l.fmt == fmt && runOk load t l pa n) with
    | .error b => return .error b
    | .ok l => return .ok ⟨r, m, fmt, l⟩

/-- Plan every run. -/
def planRows (load : Bool) (t : ETy) : List Row → M (Except Bad (List Plan))
  | [] => return .ok []
  | r :: l => do
    match ← planRow load t r with
    | .error b => return .error b
    | .ok p =>
      match ← planRows load t l with
      | .error b => return .error b
      | .ok ps => return .ok (p :: ps)

/-- The span of a run for the scoreboard and R110. -/
def State.rowRange (s : State) (r : Row) (m : Nat) : Range := s.span s.tile.ctxid r.addr (runBytes r.count m)

/-- Elements of a run whose first bit lies in a piece, as (element, bit offset in the run), masked ones left out. -/
def Plan.elems (p : Plan) (x : Seg) (live : Nat → Bool) : List (Nat × Nat) :=
  ((List.range p.row.count).map fun j => (p.row.first + j, j * p.m)).filter fun e =>
    x.off * 8 ≤ e.2 && e.2 < (x.off + x.len) * 8 && live e.1

/-- The bytes that a piece at `pa` of a page reads: its data, and the side areas of the blocks that live elements decode with
(R393). -/
def Plan.reads (p : Plan) (t : ETy) (x : Seg) (pa : Nat) (l : Leaf) (live : Nat → Bool) : List (Nat × Nat) :=
  (pa, x.len) :: (if decodes p.fmt t then
      let pb := l.base pa
      ((p.elems x live).map fun e => ((pa - pb) * 8 + (e.2 - x.off * 8)) / p.m / l.geo.b).eraseDups.flatMap fun n => l.side pb n
    else [])

/-- The bytes of the map that a plan reads. -/
def Plan.pieces (p : Plan) (t : ETy) (live : Nat → Bool) : List (Nat × Nat) :=
  p.segs.flatMap fun x =>
    match x.at_ with
    | .mem pa (some l) => p.reads t x pa l live
    | .mem pa none => [(pa, x.len)]
    | _ => []

/-- The local address of a piece. -/
def Plan.va (p : Plan) (x : Seg) : Nat := fld p.row.addr 51 0 + x.off

/-- Ask for the words of other devices' frames that plans decode; the failure of one that could not be read (R269, DESIGN CHOICE, log 14). -/
def pullPlans (t : ETy) (live : Nat → Bool) (l : List Plan) (s : State) : State × Option (Byte × Word) :=
  (l.flatMap fun p => p.segs.map fun x => (p, x)).foldl (fun (a : State × Option (Byte × Word)) e =>
    match a.2, e.2.at_ with
    | none, .phys d c k pa g lf =>
      if decodes e.1.fmt t then a.1.pullWords a.1.tile.ctxid d c k g (wordsAround (e.1.va e.2) pa (e.1.reads t e.2 pa lf live)) else a
    | _, _ => a) (s, none)

/-- One element as a load gives it in type T (R393). -/
def loadElem (rd : Nat → Nat → Nat) (fpctl : Word) (t : ETy) (m fmt pa : Nat) (l : Option Leaf) (bit : Nat) : Nat × FFlags :=
  let raw := rd (pa + bit / 8) (ceilDiv m 8) / 2 ^ (bit % 8) % 2 ^ m
  match l with
  | some l =>
    if decodes fmt t then
      let pb := l.base pa
      let (x, f) := l.decode rd pb (((pa - pb) * 8 + bit) / m)
      let r := roundTo t (fpRm fpctl) (fpFoz fpctl) x
      (r.1, r.2 ||| f)
    else if fmt == 2 && t == .f32 then (raw * 2 ^ 16, 0)
    else (raw, 0)
  | none => (raw, 0)

/-- The live elements of a plan that lie in the map, or are decoded from another device's frame: (element, code, flags). -/
def Plan.values (p : Plan) (s : State) (t : ETy) (live : Nat → Bool) : List (Nat × Nat × FFlags) :=
  p.segs.flatMap fun x =>
    match x.at_ with
    | .mem pa l => (p.elems x live).map fun e => (e.1, loadElem s.coreRead s.fpc t p.m p.fmt pa l (e.2 - x.off * 8))
    | .phys _ _ _ pa _ l =>
      if decodes p.fmt t then
        (p.elems x live).map fun e => (e.1, loadElem (s.pulledRead s.tile.ctxid (p.va x) pa) s.fpc t p.m p.fmt pa (some l) (e.2 - x.off * 8))
      else []
    | _ => []

/-- The requests of a plan's pieces on another device, with the places of their live elements (R265, R393). -/
def Plan.loads (p : Plan) (t : ETy) (live : Nat → Bool) : List (Request × List (Nat × Nat × Nat)) :=
  p.segs.flatMap fun x =>
    let go := fun (pd : BitVec 12) (c : BitVec 16) (k : BitVec 10) (la : Nat) (gen : Option Byte) =>
      (blocks224 x.len).map fun b =>
        let es := (p.elems x live).filter fun e => (x.off + b.1) * 8 ≤ e.2 && e.2 < (x.off + b.1 + b.2) * 8
        let wide := p.fmt == 2 && t == .f32
        ((⟨kLoad, p.row.addr, pd, c, k, la + b.1, gen, 4, BitVec.ofNat 64 b.2, 0, []⟩ : Request),
          es.map fun e => (e.1 * t.place + (if wide then 16 else 0), e.2 - (x.off + b.1) * 8, if wide then 16 else t.width))
    match x.at_ with
    | .remote d c k la => go d c k la none
    | .phys d c k pa g _ => if decodes p.fmt t then [] else go d c k pa (some g)
    | _ => []

/-- Whether every piece lies in the tile's own slice. -/
def State.allOwn (s : State) (l : List Plan) : Bool :=
  l.all fun p => p.segs.all fun x => match x.at_ with | .mem pa none => isSlice pa && sliceTile pa == s.tileId | _ => false

/-- A vector load whose plan stands: read, note the lines, and land by groups or under the interlock (R74, R75, R393). -/
def vloadDo (h : Hdr) (f : VMemF) (ps : List Plan) (s : State) : Act :=
  let t := s.shape.ty
  let m := s.vmask f.mask
  let live := fun e => maskBit m s.shape e
  let pieces := ps.flatMap fun p => p.pieces t live
  let reqs := ps.flatMap fun p => p.loads t live
  let (s, bad) := pullPlans t live ps s
  match bad with
  | some (c, v) => .deferred c v s
  | none =>
  if !reqs.isEmpty && !s.roomRemote reqs.length then .retry
  else
    consumeAll pieces (fun s =>
      let s := s.noteReads (pieces.flatMap fun x => lineKeys x.1 x.2)
      let vals := ps.flatMap fun p => p.values s t live
      if s.allOwn ps then
        .done (s.perGroup h 8 f.vd t fun _ e => (vals.find? fun v => v.1 == e).map fun v => v.2)
      else
        let fl := orAll (vals.map (·.2.2))
        let x := (placeElems t (vals.map fun v => (v.1, v.2.1))).1
        let en := (placeElems t (((List.range s.shape.n).filter live).map fun e => (e, 0))).2
        let s := s.onTile (·.raise fl)
        let id := s.tile.srcSeq.toNat
        match blockLoads (s.vbase f) f.vd s.tile.iw.idx s.tile.iw.seq reqs 0 s with
        | (s, some c) => .deferred c (s.vbase f) s
        | (s, none) => .done (s.pushLoadF (.vec f.vd x en) (if reqs.isEmpty then none else some id) fl)) s

/-- The cells of the live elements of a piece, from address `base` of its first byte (R394). -/
def Plan.cells (p : Plan) (s : State) (vd : VReg) (t : ETy) (x : Seg) (base : Nat) (live : Nat → Bool) : List (Nat × Byte × Byte) :=
  (p.elems x live).flatMap fun e =>
    let v := s.velem vd t s.shape e.1 % 2 ^ t.width
    let bit := e.2 - x.off * 8
    if p.m < 8 then [(base + bit / 8, BitVec.ofNat 8 ((2 ^ p.m - 1) * 2 ^ (bit % 8)), BitVec.ofNat 8 (v * 2 ^ (bit % 8)))]
    else cellsAt (base + bit / 8) (toBytes (p.m / 8) v)

/-- The stores of a plan in the map: one for each piece with a live element (R394). -/
def Plan.stores (p : Plan) (s : State) (vd : VReg) (t : ETy) (live : Nat → Bool) : List (Store × Bool × List Nat) :=
  p.segs.filterMap fun x =>
    match x.at_ with
    | .mem pa l =>
      let cs := p.cells s vd t x pa live
      if cs.isEmpty then none
      else
        let (st, sh) := s.storeAt (p.row.addr + BitVec.ofNat 64 x.off) pa l cs x.len
        some (st, sh, cs.map fun c => lineKey c.1)
    | _ => none

/-- Whole bytes in ascending order as runs of consecutive ones of at most 224. -/
def byteRuns : List (Nat × Byte) → List (Nat × List Byte)
  | [] => []
  | (a, b) :: r =>
    match byteRuns r with
    | (c, l) :: q => if c == a + 1 && l.length < 224 then (a, b :: l) :: q else (a, [b]) :: (c, l) :: q
    | [] => [(a, [b])]

/-- The store requests of a plan's pieces on another device (R123, R265).  A byte of which one E2M1 element is live
carries its neighbour's code from the register (DEDUCED, log 21). -/
def Plan.sends (p : Plan) (s : State) (vd : VReg) (t : ETy) (live : Nat → Bool) : List Request :=
  p.segs.flatMap fun x =>
    let go := fun (pd : BitVec 12) (c : BitVec 16) (k : BitVec 10) (la : Nat) (gen : Option Byte) =>
      let at_ := fun (f : Nat → Bool) => p.cells s vd t x 0 f
      let bytes := ((at_ live).map (·.1)).eraseDups.map fun a => (a, overCell a 0 (at_ fun _ => true))
      (byteRuns bytes).map fun r => (⟨kStore, p.row.addr, pd, c, k, la + r.1, gen, 4, BitVec.ofNat 64 r.2.length, 0, r.2⟩ : Request)
    match x.at_ with
    | .remote d c k la => go d c k la none
    | .phys d c k pa g _ => go d c k pa (some g)
    | _ => []

/-- A vector store whose plan stands (R394). -/
def vstoreDo (f : VMemF) (ps : List Plan) (s : State) : Act :=
  let t := s.shape.ty
  let m := s.vmask f.mask
  let live := fun e => maskBit m s.shape e
  let sts := ps.flatMap fun p => p.stores s f.vd t live
  let s1 := (ps.flatMap fun p => p.sends s f.vd t live).foldl (fun s q => s.holdEffect (.remote q)) s
  s1.bufferStore (sts.flatMap (·.2.2)) (sts.any (·.2.1)) (sts.map (·.1))

/-- A vector load or store: type, precise checks, plan, then the access (R395). -/
def vmemWord (load strided : Bool) (h : Hdr) (f : VMemF) (s : State) : Host.Outcome State Fault Refusal :=
  issue .A s.shape.groups h (actAttempt fun s =>
    if !typeOk f.ty s.shape then illegal s
    else
      match s.vPrecise f strided with
      | some (c, v) => .trap c v
      | none =>
        let t := s.shape.ty
        match planRows load t (s.vrows f strided) s with
        | (.error b, s1) =>
          if (s.vrows f strided).any fun r => s.meetsHeld (s.rowRange r t.place) then .before else b.act s1
        | (.ok ps, s1) =>
          if ps.any fun p => s.meetsHeld (s.rowRange p.row p.m) then .before
          else if load then vloadDo h f ps s1 else vstoreDo f ps s1) s

/-- VLD (R392, R393). -/
def execVld (h : Hdr) (f : VMemF) (s : State) : Host.Outcome State Fault Refusal := vmemWord true false h f s
/-- VST (R392, R394). -/
def execVst (h : Hdr) (f : VMemF) (s : State) : Host.Outcome State Fault Refusal := vmemWord false false h f s
/-- VLDS (R392, R393). -/
def execVlds (h : Hdr) (f : VMemF) (s : State) : Host.Outcome State Fault Refusal := vmemWord true true h f s
/-- VSTS (R392, R394). -/
def execVsts (h : Hdr) (f : VMemF) (s : State) : Host.Outcome State Fault Refusal := vmemWord false true h f s

end Sys2Proof.Machine
end

