-- ==== Sys2Proof/Machine/VecMove.lean ====
section
/-! DEFINITION. Words of the V engine that move, quantise, reduce and scan elements, and the shape word (R157 to R163,
R398 to R403, R406, R409, R411). -/

namespace Sys2Proof.Machine
open Sys2Proof

/-- The window exponent of latch `n` as captured (R157). -/
def State.pswL (s : State) (n : Nat) : Int := lsbExp (vget s.tile.iw.caps.psw n)

/-- Latch `n` as the word that issues reads it (R383). -/
def State.latch (s : State) (n : Nat) : AccEntry := vget s.tile.regs.ps n

/-! ### Single elements, permutations -/

/-- The value of VMOVS: INT8 and INT32 are sign-extended (R398). -/
def movsValue (t : ETy) (c : Nat) : Word := if t.isInt then sextBytes (t.width / 8) c else BitVec.ofNat 64 c

/-- VMOVS (R398). -/
def execVmovs (h : Hdr) (sd : VReg) (va : VReg) (ty : Option ETy) (idx : BitVec 10) (s : State) : Host.Outcome State Fault Refusal :=
  vWord h ty (fun _ => 1) (fun s =>
    let t := s.shape.ty
    if s.shape.n ≤ idx.toNat then illegal s
    else .done (s.result h 1 3 (.sreg (sd.zeroExtend 6) (movsValue t (elemAt (s.vgroup va 0) t idx.toNat))) 0)) s

/-- VPERM (R399): `vb` is read as a whole at issue. -/
def execVperm (h : Hdr) (vd va vb : VReg) (mask : MReg) (ty : Option ETy) (s : State) : Host.Outcome State Fault Refusal :=
  vWord h ty (·.groups) (fun s =>
    let sh := s.shape
    let t := sh.ty
    if 1024 < sh.n then illegal s
    else
      let m := s.vmask mask
      let ix := s.vgroup vb 0
      let l := ((List.range sh.n).filter fun e => maskBit m sh e).map fun e =>
        let i := vecBytes ix (2 * e) 2
        (e, if i < sh.n then s.velem va t sh i else 0)
      let (x, en) := placeElems t l
      .done (s.whole h sh.groups 6 (.vec vd x en) 0 sh.ty.place)) s

/-- VTRANS (R411). -/
def execVtrans (h : Hdr) (vd va : VReg) (ty : Option ETy) (s : State) : Host.Outcome State Fault Refusal :=
  vWord h ty (·.groups) (fun s =>
    let sh := s.shape
    let t := sh.ty
    let l := (List.range sh.n).map fun e => (e % sh.cols * sh.rows + e / sh.cols, s.velem va t sh e)
    let (x, en) := placeElems t l
    .done (s.whole h sh.groups 6 (.vec vd x en) 0 sh.ty.place)) s

/-! ### Quantisation (R401, R402) -/

/-- A block as quantised: codes, scale code, outlier entries as 32-bit words, flags. -/
structure QOut where
  codes : List Nat
  scale : Nat
  entries : List Nat
  flags : FFlags
deriving DecidableEq, Repr

/-- The magnitude of a finite value as m × 2^e. -/
def FVal.mag : FVal → Nat × Int
  | .fin _ m e _ => (m, e)
  | _ => (0, 0)

/-- Whether m × 2^e ≤ n × 2^f. -/
def leScaled (m : Nat) (e : Int) (n : Nat) (f : Int) : Bool :=
  if f ≤ e then decide (m * 2 ^ (e - f).toNat ≤ n) else decide (m ≤ n * 2 ^ (f - e).toNat)

/-- MAXF (R402). -/
def maxOf (f : ETy) : FVal := if f.isInt then .ofInt 127 else elemValue f f.maxCode

/-- The scale code of a block whose greatest ordinary magnitude is `a` (R402): the least scale at which `a` does not
exceed MAXF, or the greatest scale. -/
def scaleCode (f : ETy) (e4 : Bool) (a : Nat × Int) : Nat :=
  if a.1 == 0 then (if e4 then 0x38 else 127)
  else
    let mx := (maxOf f).mag
    let fits := fun (c : Nat) => let sc := scaleOf e4 c; leScaled a.1 a.2 (mx.1 * sc.m) (mx.2 + sc.e)
    if e4 then ((List.range 0x7E).map (· + 1)).find? fits |>.getD 0x7E
    else (List.range 255).find? fits |>.getD 254

/-- The positions of the `c` largest nonzero magnitudes, ties to the lower position, ascending (R402). -/
def outlierSet (c : Nat) (x : List FVal) : List Nat :=
  let l := ((List.range x.length).map fun p => (p, (x.getD p (.nan false)).mag)).filter fun y => y.2.1 != 0
  let best := sortBy (fun a b : Nat × Nat × Int => !leScaled a.2.1 a.2.2 b.2.1 b.2.2) l
  sortBy (fun a b : Nat => decide (a < b)) ((best.take c).map (·.1))

/-- Quantise one block (R402). -/
def quantBlock (f : ETy) (e4 : Bool) (c rm : Nat) (foz : Bool) (x : List FVal) : QOut :=
  if x.any fun v => v.isNan || v.isInf then
    ⟨x.map fun _ => 0, if e4 then 0x7F else 0xFF, List.replicate c 0, .nv⟩
  else
    let o := outlierSet c x
    let rest := (List.range x.length).filter fun p => !o.contains p
    let mag := fun p => (x.getD p (.nan false)).mag
    let a := rest.foldl (fun a p => if leScaled (mag p).1 (mag p).2 a.1 a.2 then a else mag p) ((0, 0) : Nat × Int)
    let sc := scaleCode f e4 a
    let s := scaleOf e4 sc
    let div := fun p => (fDiv (x.getD p (.nan false)) (.exact false s.m s.e)).1
    let rs := (List.range x.length).map fun p =>
      if o.contains p then (f.escape, (0 : FFlags)) else roundTo f rm foz (div p)
    let es := o.map fun p => let r := roundTo .bf16 rm foz (div p); (2 ^ 31 + p * 2 ^ 16 + r.1, r.2)
    ⟨rs.map (·.1), sc, es.map (·.1) ++ List.replicate (c - es.length) 0, orAll (rs.map (·.2)) ||| orAll (es.map (·.2))⟩

/-- VQUANT (R401, R402). -/
def execVquant (h : Hdr) (vd va vb vc : VReg) (dty : ETy) (blk : QBlk) (e4 : Bool) (cap : QCap) (s : State) : Host.Outcome State Fault Refusal :=
  vWord h none (·.groups) (fun s =>
    let sh := s.shape
    let t := sh.ty
    let b := match blk with | .b16 => 16 | .b32 => 32 | .b64 => 64
    let c := match cap with | .c0 => 0 | .c2 => 2 | .c4 => 4
    if !t.isFloat || sh.cols % b != 0 then illegal s
    else
      let per := 4096 / t.place
      let s := (List.range sh.groups).foldl (fun s g =>
        let src := s.vgroup va g
        let first := g * per / b
        let ks := (List.range (min per (sh.n - g * per) / b)).map fun i => first + i
        let qs := ks.map fun k =>
          (k, quantBlock dty e4 c (fpRm s.fpc) (fpFoz s.fpc) ((List.range b).map fun p => (inValue t (fpFiz s.fpc) (elemAt src t (k * b + p))).1))
        let codes := placeElems dty (qs.flatMap fun q => (List.range b).map fun p => (q.1 * b + p, q.2.codes.getD p 0))
        let sum := fun (l : List (BitVec 16384 × BitVec 16384)) => l.foldl (fun a x => (a.1 ||| x.1, a.2 ||| x.2)) (0, 0)
        let scales := sum (qs.map fun q => placeBytes q.1 1 q.2.scale)
        let ents := sum (qs.flatMap fun q => (List.range c).map fun j => placeBytes ((q.1 * c + j) * 4) 4 (q.2.entries.getD j 0))
        let at_ := s.landAt h sh.groups 8 g
        s.onTile fun x =>
          let x := x.result h.v at_ (.vec vd codes.1 codes.2) (orAll (qs.map fun q => q.2.flags)) dty.place
          let x := x.result h.v at_ (.vec vb scales.1 scales.2) 0 8
          if c == 0 then x else x.result h.v at_ (.vec vc ents.1 ents.2) 0) s
      .done s) s

/-! ### Latches (R161 to R163) -/

/-- The unmasked elements of a source in element order, with their flags. -/
def State.maskedElems (s : State) (va : VReg) (mask : MReg) : List (Nat × FVal × FFlags) :=
  let sh := s.shape
  let m := s.vmask mask
  ((List.range sh.n).filter fun e => maskBit m sh e).map fun e => (e, inValue sh.ty (fpFiz s.fpc) (s.velem va sh.ty sh e))

/-- VRED (R403). -/
def execVred (h : Hdr) (n : LReg) (va : VReg) (mask : MReg) (ty : Option ETy) (clr : Bool) (s : State) : Host.Outcome State Fault Refusal :=
  vWord h ty (·.groups) (fun s =>
    let l := s.pswL n.toNat
    let xs := s.maskedElems va mask
    let r0 := (if clr then AccEntry.zero else s.latch n.toNat).run
    let r := xs.foldl (fun r x => r.addValue l x.2.1) r0
    .done (s.whole h s.shape.groups 10 (.latch n r.finish) (orAll (xs.map fun x => x.2.2 &&& .oo)))) s

/-- VPSMOV (R400): `ty` is the output type, none for the raw image. -/
def execVpsmov (h : Hdr) (vd : VReg) (n : LReg) (ty : Option ETy) (s : State) : Host.Outcome State Fault Refusal :=
  vWord h none (fun _ => 1) (fun s =>
    let a := s.latch n.toNat
    let l := s.pswL n.toNat
    match ty with
    | some t =>
      let r := a.drain l t (fpRm s.fpc) (fpFoz s.fpc)
      let (x, en) := placeElems t [(0, r.1)]
      .done (s.whole h 1 4 (.vec vd x en) r.2 t.place)
    | none =>
      let (x, en) := placeBytes 0 32 (ofBytes (a.image l))
      .done (s.whole h 1 4 (.vec vd x en) 0)) s

/-- The outputs of VSCAN in element order, with the latch after the word (R162). -/
def scanOut (t : ETy) (l : Int) (rm : Nat) (foz : Bool) (r : Run) : List (Nat × FVal × FFlags) → List (Nat × Nat × FFlags) × Run
  | [] => ([], r)
  | (e, x, _) :: rest =>
    let r := r.addValue l x
    let d := r.drain l t rm foz
    let o := scanOut t l rm foz r rest
    ((e, d.1, d.2) :: o.1, o.2)

/-- VSCAN (R406). -/
def execVscan (h : Hdr) (vd va : VReg) (n : LReg) (mask : MReg) (ty : Option ETy) (s : State) : Host.Outcome State Fault Refusal :=
  vWord h ty (·.groups) (fun s =>
    let t := s.shape.ty
    if !(t.isFloat || t.isInt) then illegal s
    else
      let o := scanOut t (s.pswL n.toNat) (fpRm s.fpc) (fpFoz s.fpc) (s.latch n.toNat).run (s.maskedElems va mask)
      let (x, en) := placeElems t (o.1.map fun r => (r.1, r.2.1))
      let s := s.whole h s.shape.groups 12 (.vec vd x en) (orAll (o.1.map (·.2.2))) t.place
      .done (s.whole h s.shape.groups 12 (.latch n o.2.finish) 0)) s

/-! ### The shape register (R409) -/

/-- A write of VSHAPE at issue; a refused value raises ILLEGAL. -/
def shapeWord (h : Hdr) (v : State → Word) (s : State) : Host.Outcome State Fault Refusal :=
  issue .V 1 h (fun s =>
    if shapeRefused (v s) then illegal s
    else .done (s.onTile fun t => { t with regs := { t.regs with vshape := v s } })) s.resumeFetch

/-- VSHAPE from a scalar. -/
def execVshapeReg (h : Hdr) (r : VReg) (s : State) : Host.Outcome State Fault Refusal := shapeWord h (fun s => s.srv r) s

/-- VSHAPE with an immediate shape. -/
def execVshapeImm (h : Hdr) (rows : BitVec 6) (cols : BitVec 9) (ty : ETy) (s : State) : Host.Outcome State Fault Refusal :=
  shapeWord h (fun _ => BitVec.ofNat 64 (tyCode ty * 2 ^ 16 + cols.toNat * 2 ^ 6 + rows.toNat)) s

end Sys2Proof.Machine
end

