-- ==== Sys2Proof/Machine/Lists.lean ====
section
/-! DEFINITION. List registers, selection, shortlists, sampling and random numbers (R215 to R223, R397, R404, R405, R408,
R410). -/

namespace Sys2Proof.Machine
open Sys2Proof

/-! ### List registers (R215) -/

/-- An entry of a list: FP32 code and index. -/
structure LEnt where
  val : Nat
  idx : Nat
deriving DecidableEq, Repr

/-- A list register: its valid entries, NEXT, COUNT, SRC, RSTAT, the two images, REF. -/
structure LReg215 where
  ents : List LEnt
  next : Nat
  count : Nat
  src : Nat
  rstat : Nat
  timg : List Byte
  simg : List Byte
  ref : Nat
deriving DecidableEq, Repr

/-- Read a list register. -/
def listOf (x : BitVec 16384) : LReg215 :=
  let w := fun b => vecBytes x b 4
  let n := w 516
  { ents := (List.range (min n 64)).map fun j => ⟨w (4 * j), w (256 + 4 * j)⟩
    next := w 512
    count := n
    src := w 520
    rstat := w 524 % 16
    timg := toBytes 32 (vecBytes x 528 32)
    simg := toBytes 32 (vecBytes x 560 32)
    ref := w 592 }

/-- A whole list register, padding included. -/
def LReg215.image (l : LReg215) : BitVec 16384 :=
  let e := fun (f : LEnt → Nat) (d : Nat) => (List.range 64).flatMap fun j => toBytes 4 ((l.ents[j]?.map f).getD d)
  BitVec.ofNat 16384 (ofBytes
    (e (·.val) 0xFF800000 ++ e (·.idx) 0xFFFFFFFF ++ toBytes 4 l.next ++ toBytes 4 l.ents.length ++ toBytes 4 l.src
      ++ toBytes 4 (l.rstat % 16) ++ l.timg ++ l.simg ++ toBytes 4 l.ref))

/-- The place of an FP32 code in the order of values, −0 below +0; a NaN's place is free (DESIGN CHOICE, log 23). -/
def valueKey (c : Nat) : Int :=
  if 0x7F800000 < c % 2 ^ 31 then Config.listNan c else if c < 2 ^ 31 then c else -((c - 2 ^ 31 : Nat) : Int) - 1

/-- Whether one entry stands before another: the greater value, then the lower index (R215). -/
def LEnt.before (a b : LEnt) : Bool :=
  decide (valueKey b.val < valueKey a.val) || valueKey a.val == valueKey b.val && decide (a.idx < b.idx)

/-- Sort entries (R215). -/
def sortList (l : List LEnt) : List LEnt := sortBy LEnt.before l

/-- The value of an entry. -/
def LEnt.value (e : LEnt) : FVal := elemValue .f32 e.val

/-- A finite entry. -/
def LEnt.finite (e : LEnt) : Bool := match e.value with | .fin .. => true | _ => false

/-- AddPartial of the negation of an entry's value where it is finite (R216, R217). -/
def Run.takeOut (r : Run) (l : Int) (e : LEnt) : Run := if e.finite then r.addValue l e.value.negate else r

/-- The FP32 code of an element: Widen after FIZ (R149, R216). -/
def widenCode (t : ETy) (fiz : Bool) (c : Nat) : Nat := let c := fizCode t fiz c; if t == .bf16 then c * 2 ^ 16 else c

/-- 32-bit sum. -/
def wrap32 (x : Nat) : Nat := x % 2 ^ 32

/-- The unmasked elements of a source as entries of list indices from `next` on. -/
def State.listElems (s : State) (va : VReg) (mask : MReg) (next : Nat) : List LEnt :=
  let sh := s.shape
  let m := s.vmask mask
  ((List.range sh.n).filter fun e => maskBit m sh e).map fun e =>
    ⟨widenCode sh.ty (fpFiz s.fpc) (s.velem va sh.ty sh e), wrap32 (next + e)⟩

/-- Whether the captured shape suits VSELK and VSHORT. -/
def listShape (sh : Shape) : Bool := sh.ty.isFloat && sh.n ≤ 512

/-! ### VSELK, VMERGEK (R216, R217) -/

/-- VSELK on a list and latches: the list after it and the two latches (R216). (DEDUCED, log 87) -/
def selectK (l : LReg215) (tl sl : Int) (t s : Run) (k width : Nat) (xs : List LEnt) : LReg215 × AccEntry × AccEntry :=
  let bad := xs.any fun x => x.value.isNan
  let xs := xs.filter fun x => !x.value.isNan && x.val != 0xFF800000
  let t := xs.foldl (fun r x => r.addValue tl x.value) t
  let s := xs.foldl (fun r x => r.addValue sl x.value) s
  let all := sortList (l.ents ++ xs)
  let s := (all.drop k).foldl (fun r x => r.takeOut sl x) s
  let ta := t.finish
  let sa := s.finish
  ({ l with ents := all.take k, next := wrap32 (l.next + width), rstat := l.rstat ||| (if bad then 2 else 0)
            timg := ta.image tl, simg := sa.image sl }, ta, sa)

/-- VSELK (R216, R408). -/
def execVselk (h : Hdr) (vd va : VReg) (sb : VReg) (t s : LReg) (k : BitVec 7) (mask : MReg) (ty : Option ETy) (st : State) :
    Host.Outcome State Fault Refusal :=
  vWord h ty (·.groups) (fun x =>
    let l := listOf (x.vgroup vd 0)
    if !listShape x.shape || 64 < l.count then illegal x
    else
      let g := x.shape.groups
      let (r, ta, sa) := selectK l (x.pswL t.toNat) (x.pswL s.toNat) (x.latch t.toNat).run (x.latch s.toNat).run k.toNat
        x.shape.n (x.listElems va mask l.next)
      let x := x.whole h g 16 (.vec vd r.image (BitVec.allOnes 16384)) 0
      let x := x.whole h g 16 (.latch t ta) 0
      let x := x.whole h g 16 (.latch s sa) 0
      .done (x.whole h g 16 (.sreg (sb.zeroExtend 6) (BitVec.ofNat 64 r.ents.length)) 0)) st

/-- VMERGEK on two lists under the windows of the two latches; none where an image is refused (R217). -/
def mergeK (a b : LReg215) (tl sl : Int) (k : Nat) : Option (LReg215 × AccEntry × AccEntry) :=
  match imageOf a.timg, imageOf b.timg, imageOf a.simg, imageOf b.simg with
  | some ta, some tb, some sa, some sb =>
    let t := (AccEntry.zero.run.combine tl ta.1 ta.2).combine tl tb.1 tb.2
    let s := (AccEntry.zero.run.combine sl sa.1 sa.2).combine sl sb.1 sb.2
    let (lo, hi) := if b.src < a.src then (b, a) else (a, b)
    let dup := hi.ents.filter fun x => lo.ents.any fun y => y.idx == x.idx
    let keep := hi.ents.filter fun x => !lo.ents.any fun y => y.idx == x.idx
    let t := dup.foldl (fun r x => r.takeOut tl x) t
    let s := dup.foldl (fun r x => r.takeOut sl x) s
    let all := sortList (lo.ents ++ keep)
    let s := (all.drop k).foldl (fun r x => r.takeOut sl x) s
    let te := t.finish
    let se := s.finish
    some ({ ents := all.take k, next := max a.next b.next, count := 0, src := lo.src
            rstat := ((a.rstat ||| b.rstat) % 4) ||| (if dup.isEmpty then 0 else 1)
            timg := te.image tl, simg := se.image sl, ref := 0 }, te, se)
  | _, _, _, _ => none

/-- VMERGEK (R217, R397). -/
def execVmergek (h : Hdr) (vd va vb : VReg) (t s : LReg) (k : BitVec 7) (st : State) : Host.Outcome State Fault Refusal :=
  vWord h none (fun _ => 2) (fun x =>
    let a := listOf (x.vgroup va 0)
    let b := listOf (x.vgroup vb 0)
    if 64 < a.count || 64 < b.count then illegal x
    else
      match mergeK a b (x.pswL t.toNat) (x.pswL s.toNat) k.toNat with
      | none => illegal x
      | some (r, te, se) =>
        let x := x.whole h 2 16 (.vec vd r.image (BitVec.allOnes 16384)) 0
        let x := x.whole h 2 16 (.latch t te) 0
        .done (x.whole h 2 16 (.latch s se) 0)) st

/-! ### Shortlists (R219) -/

/-- Term: 2^(x − REF) rounded to FP32 (R219). -/
def termOf (ref x : Nat) : Nat :=
  let d := (fAdd false (elemValue .f32 x) (elemValue .f32 ref).negate).1
  (roundFmt .f32 0 (fExp2 d).1).1

/-- A finite FP32 code in units of 2^−149. -/
def units149 (c : Nat) : Int :=
  match elemValue .f32 c with
  | .fin n m e _ => let v : Int := (m * 2 ^ (e + 149).toNat : Nat); if n then -v else v
  | _ => 0

/-- Whether x × 2^e < y × 2^f. -/
def ltScaledInt (x : Int) (e : Int) (y : Int) (f : Int) : Bool :=
  if f ≤ e then decide (x * (2 ^ (e - f).toNat : Nat) < y) else decide (x < y * (2 ^ (f - e).toNat : Nat))

/-- Whether Sm < SAMPTH × T exactly (R219). -/
def belowShare (sm : Int) (th : Nat) (v : Int) (l : Int) : Bool :=
  match elemValue .f32 th with
  | .fin n m e _ => ltScaledInt sm (-149) ((if n then -(m : Int) else m) * v) (e + l)
  | .inf n => if n then decide (v < 0) else decide (0 < v)
  | .nan _ => false

/-- VSHORT on a list and its latch (R219). -/
def shortK (l : LReg215) (wl : Int) (p : Run) (th width : Nat) (xs : List LEnt) : LReg215 × AccEntry :=
  let bad := xs.any fun x => x.value.isNan || x.val == 0x7F800000
  let cand := xs.filter (·.finite)
  let all := (sortList (l.ents ++ cand)).take 64
  let set := 8 ≤ l.rstat
  let top := bestBy (fun a b : LEnt => decide (valueKey b.val < valueKey a.val)) cand
  let ref := if set then l.ref else match top with | some x => x.val | none => l.ref
  let p := (cand.foldl (fun r x => r.addValue wl (elemValue .f32 (termOf ref x.val))) p).finish
  let terms := (all.filter (·.finite)).map fun x => termOf ref x.val
  let isNan := fun (c : Nat) => match elemValue .f32 c with | .nan _ => true | _ => false
  let isInf := fun (c : Nat) => match elemValue .f32 c with | .inf _ => true | _ => false
  let sm := (terms.map units149).sum
  let inf := all.any fun x => x.val == 0x7F800000
  let share := if terms.any isNan then Config.shortShare ref else !terms.any isInf && belowShare sm th p.v.toInt wl
  let div := inf || p.nan || p.pinf || p.ninf || p.ovf || share
  ({ l with ents := all, next := wrap32 (l.next + width), ref := ref, timg := p.image wl, simg := toBytes 32 0
            rstat := l.rstat ||| (if bad || inf then 2 else 0) ||| (if div then 4 else 0)
              ||| (if set || !cand.isEmpty then 8 else 0) }, p)

/-- VSHORT (R219, R410). -/
def execVshort (h : Hdr) (vd va : VReg) (n : LReg) (mask : MReg) (ty : Option ETy) (s : State) : Host.Outcome State Fault Refusal :=
  vWord h ty (fun sh => 2 * sh.groups) (fun s =>
    let l := listOf (s.vgroup vd 0)
    if !listShape s.shape || 64 < l.count then illegal s
    else
      let g := 2 * s.shape.groups
      let (r, p) := shortK l (s.pswL n.toNat) (s.latch n.toNat).run (fld s.tile.iw.caps.sampth 31 0) s.shape.n (s.listElems va mask l.next)
      let s := s.whole h g 20 (.vec vd r.image (BitVec.allOnes 16384)) 0
      .done (s.whole h g 20 (.latch n p) 0)) s

/-! ### Sampling (R221) -/

/-- 2^((x − y) / t) rounded to FP32, for a finite positive normal t (R221). -/
def weightCode (x y t : Nat) : Nat :=
  match (fAdd false (elemValue .f32 x) (elemValue .f32 y).negate).1, elemValue .f32 t with
  | .fin n m e _, .fin _ m2 e2 _ =>
    let k := e - e2
    let num := if 0 ≤ k then m * 2 ^ k.toNat else m
    let den := if 0 ≤ k then m2 else m2 * 2 ^ (-k).toNat
    if 200 * den ≤ num then (roundFmt .f32 0 (.fin false 1 (if n then -400 else 400) true)).1
    else
      let a := num * fxOne / den
      let more := num * fxOne % den != 0
      let v : Int := if n then -((a : Int) + (if more then 1 else 0)) else a
      let i := v / (fxOne : Int)
      let f := (v % (fxOne : Int)).toNat
      (roundFmt .f32 0 (if f == 0 && !more then .exact false 1 i else .fin false (exp2Fix f) (i - fxBits) true)).1
  | .inf n, _ => if n then 0 else 0x7F800000
  | _, _ => 0x7FC00000

/-- The weights of the entries in units of 2^−149 (R221); a weight that is no finite number is free (DESIGN CHOICE, log 23). -/
def sampWeights (l : List LEnt) (t : Nat) : List Nat :=
  let x0 := (l.getD 0 ⟨0, 0⟩).val
  if x0 == 0x7F800000 then l.map fun x => if x.val == 0x7F800000 then 1 else 0
  else l.map fun x =>
    let c := weightCode x.val x0 t
    if 0x7F800000 ≤ c then 1 + Config.sampWeight x.val else (units149 c).toNat

/-- The first entry whose running sum times 2^32 passes the target (R221). -/
def drawFrom (target : Nat) : Nat → List (LEnt × Nat) → Nat
  | _, [] => 0xFFFFFFFF
  | sum, (e, w) :: r => if target < (sum + w) * 2 ^ 32 then e.idx else drawFrom target (sum + w) r

/-- VSAMP: status and index, and whether NV is set (R221). -/
def sample (l : LReg215) (u t : Nat) : Nat × Nat × FFlags :=
  let mag := t % 2 ^ 31
  let neg := 2 ^ 31 ≤ t
  if 0x7F800000 < mag || t == 0xFF800000 || neg && 0x800000 ≤ mag then (3, 0xFFFFFFFF, .nv)
  else if l.count == 0 then (4, 0xFFFFFFFF, 0)
  else
    let idx := fun j => (l.ents.getD j ⟨0, 0⟩).idx
    if mag < 0x800000 then (1, idx 0, 0)
    else if t == 0x7F800000 then (2, idx (u * l.count / 2 ^ 32), 0)
    else
      let w := sampWeights l.ents t
      (0, drawFrom (u * w.sum) 0 (l.ents.zip w), 0)

/-- VSAMP (R221, R405). -/
def execVsamp (h : Hdr) (sd : VReg) (va vb : VReg) (sc : VReg) (s : State) : Host.Outcome State Fault Refusal :=
  vWord h none (fun _ => 1) (fun s =>
    let l := listOf (s.vgroup va 0)
    if 64 < l.count then illegal s
    else
      let (st, ix, f) := sample l (vecBytes (s.vgroup vb 0) 0 4) (fld (s.srv sc) 31 0)
      .done (s.result h 1 12 (.sreg (sd.zeroExtend 6) (BitVec.ofNat 64 (st * 2 ^ 32 + ix))) f)) s

/-! ### Random numbers (R222) -/

/-- One Philox round on (c0, c1, c2, c3) under (k0, k1). -/
def philoxRound (c : Nat × Nat × Nat × Nat) (k0 k1 : Nat) : Nat × Nat × Nat × Nat :=
  let (c0, c1, c2, c3) := c
  let a := 0xD2511F53 * c0
  let b := 0xCD9E8D57 * c2
  ((b / 2 ^ 32) ^^^ c1 ^^^ k0, b % 2 ^ 32, (a / 2 ^ 32) ^^^ c3 ^^^ k1, a % 2 ^ 32)

/-- Philox-4x32 of 10 rounds: block `x` under key `key`, as 16 bytes. -/
def philox (x key : Nat) : List Byte :=
  let r := (List.range 10).foldl (fun (a : (Nat × Nat × Nat × Nat) × Nat × Nat) i =>
    let (c, k0, k1) := a
    let (k0, k1) := if i == 0 then (k0, k1) else (wrap32 (k0 + 0x9E3779B9), wrap32 (k1 + 0xBB67AE85))
    (philoxRound c k0 k1, k0, k1)) ((x % 2 ^ 32, x / 2 ^ 32, 0, 0), key % 2 ^ 32, key / 2 ^ 32)
  let (c0, c1, c2, c3) := r.1
  toBytes 4 c0 ++ toBytes 4 c1 ++ toBytes 4 c2 ++ toBytes 4 c3

/-- The first `n` bytes of random words from counter `a` (R222). -/
def philoxBytes (a key : Word) (n : Nat) : Nat :=
  ofBytes ((List.range (ceilDiv n 16)).flatMap fun j => philox (a + BitVec.ofNat 64 j).toNat key.toNat)

/-- VRNG (R222, R404). -/
def execVrng (h : Hdr) (vd : VReg) (r : VReg) (mask : MReg) (ty : Option ETy) (s : State) : Host.Outcome State Fault Refusal :=
  vWord h ty (·.groups) (fun s =>
    let t := s.shape.ty
    let m := s.vmask mask
    let x := BitVec.ofNat 16384 (philoxBytes (s.srv r) s.tile.iw.caps.taskkey s.shape.bytes)
    .done (s.perGroup h 6 vd t fun _ e => if maskBit m s.shape e then some (elemAt x t e, 0) else none)) s

end Sys2Proof.Machine
end

