-- ==== Sys2Proof/Machine/System.lean ====
section
/-! DEFINITION. TLBI (R133, R378, R379), ROUTE (R260, R261, R279, R365), and SEAL and UNSEAL up to the Glaze engine (R289,
R369). -/

namespace Sys2Proof.Machine
open Sys2Proof

/-- Whether the boundary word of tile `t` is the first in commit order among those that `f` selects and that have not
begun (R82). -/
def State.firstOf (s : State) (f : BOp → Bool) (t : Nat) : Bool :=
  match (s.tileAt t).bnd with
  | some b =>
    match f b.op, b.commitNo with
    | true, some n => !b.begun && s.tiles.all fun u =>
        match (s.tileAt u).bnd with
        | some c => !(f c.op && !c.begun && (match c.commitNo with | some m => decide (m < n) | none => false))
        | none => true
    | _, _ => false
  | none => false

/-- TLBI and ROUTE among the boundary operations. -/
def BOp.isTlbi : BOp → Bool | .tlbi .. => true | _ => false
def BOp.isRoute : BOp → Bool | .route .. => true | _ => false

/-! ### TLBI -/

/-- TLBI (R378): a boundary word of the privileged mode. -/
def execTlbi (h : Hdr) (arg : TlbiArg) (s : State) : Host.Outcome State Fault Refusal :=
  issue .A 1 h (fun s =>
    let paged := fun (v : Word) => match spaceOf (fld v 51 0) with | .paged => fld v 63 52 == 0 | _ => false
    if !s.tile.priv then privilege s
    else
      match arg with
      | .ctx a =>
        if fld (s.sr a) 63 16 != 0 then illegal s else .done (s.boundary (.tlbi 0 (BitVec.ofNat 16 (s.sr a).toNat) 0))
      | .page a b =>
        if fld (s.sr a) 63 16 != 0 || !paged (s.sr b) then illegal s
        else .done (s.boundary (.tlbi 1 (BitVec.ofNat 16 (s.sr a).toNat) (s.sr b)))
      | .table b =>
        if fld (s.sr b) 63 44 != 0 || fld (s.sr b) 12 0 != 0 then illegal s else .done (s.boundary (.tlbi 2 0 (s.sr b)))) s

/-- TLBI_PERFORM (R133, R379). -/
def execTlbiPerform (t : TileNo) (s : State) : Host.Outcome State Fault Refusal :=
  let n := t.toNat
  if !s.firstOf BOp.isTlbi n then .next s
  else
    match (s.tileAt n).bnd with
    | none => .next s
    | some b =>
      match b.op with
      | .tlbi scope ctx va =>
        .next ((s.invalidate scope ctx va).finishBnd n none)
      | _ => .next s

/-! ### ROUTE -/

/-- ROUTE (R261). -/
def execRoute (h : Hdr) (a b : SReg) (s : State) : Host.Outcome State Fault Refusal :=
  issue .A 1 h (fun s =>
    if !s.tile.priv then privilege s
    else if 1023 < (s.sr a).toNat then illegal s
    else if (s.sr b).toNat % 32 != 0 then .trap causeMisalign (s.sr b)
    else .done (s.boundary (.route (BitVec.ofNat 10 (s.sr a).toNat) (s.sr b)))) s

/-- Whether a route image passes the checks of R261. -/
def imageOk (img : List Byte) : Bool :=
  let hops := (img.getD 24 0).toNat
  hops ≤ 24 && (List.range 24).all (fun i => i < hops || img.getD i 0 == 0) && (List.range 7).all fun i => img.getD (25 + i) 0 == 0

/-- Write a slot: bytes of an unused slot are not listed. -/
def setSlot (l : Assoc (List Byte)) (n : Nat) (img : List Byte) : Assoc (List Byte) :=
  if img.all (· == 0) then Assoc.drop n l else Assoc.put n img l

/-- The place of an operand of a boundary word of this device that is read when it is performed. -/
inductive Fetched
  | bytes (pa : Nat) (s : State)
  | wait (s : State)
  | fail (cause : Byte) (tval : Word) (s : State)
  | park (page : BitVec 36) (s : State)

/-- Reach `n` bytes at a 64-bit address for a boundary word, as a load does (R261, R369). -/
def State.fetchFor (s : State) (who : Ident) (ga : Word) (n : Nat) : Fetched :=
  match Sys2Proof.Machine.place (s.identAgent who) true ga n .rd anyFmt s with
  | (.error (.precise c v), s) | (.error (.deferred c v), s) => .fail c v s
  | (.error (.park p), s) => .park p s
  | (.error .retry, s) => .wait s
  | (.ok (.mem pa _), s) =>
    let (s, bad) := s.sense pa n
    if bad then .fail causePoisonData (BitVec.ofNat 64 (pa / 64 * 64)) s else .bytes pa s
  | (.ok _, s) => .fail causePagePerm ga s

/-- ROUTE_PERFORM: the owner check, the image, its check, one atomic write of the slot (R261, R365). -/
def execRoutePerform (t : TileNo) (s : State) : Host.Outcome State Fault Refusal :=
  let n := t.toNat
  if !s.firstOf BOp.isRoute n then .next s
  else
    match (s.tileAt n).bnd with
    | none => .next s
    | some b =>
      match b.op with
      | .route slot img =>
        let word := (s.tileAt n).progWord b.idx
        if !s.host.isOwner 1 0 then .next (s.refuse.bndFault n causePrivilege word)
        else
          match s.fetchFor b.who img 32 with
          | .wait s => .next s
          | .fail c v s => .next (s.bndFault n c v)
          | .park p s => .next (s.bndPark n p)
          | .bytes pa s =>
            let l := toBytes 32 (s.home pa 32)
            if imageOk l then
              .next ((s.modHost fun x => { x with slots := setSlot x.slots slot.toNat l }).finishBnd n none)
            else .next (s.bndFault n causeIllegal word)
      | _ => .next s

/-! ### SEAL, UNSEAL -/

/-- The checks of SEAL and UNSEAL at issue (R289, R369). -/
def sealAct (op : BitVec 32 → Word → BOp) (a b : SReg) (s : State) : Act :=
  let ga := s.sr b
  if !s.tile.priv then privilege s
  else if fld (s.sr a) 63 32 != 0 then illegal s
  else if ga.toNat % 64 != 0 then .trap causeMisalign ga
  else
    let ok := match s.device s.tile.ctxid (fld ga 63 52) with
      | some .here =>
        match spaceOf (fld ga 51 0) with
        | .flat sl off => (match s.flatPlace (s.tileAgent s.tileId) true sl off 64 ga with | .ok _ => true | .error _ => false)
        | .paged => true
        | _ => false
      | _ => false
    if ok then .done (s.boundary (op (BitVec.ofNat 32 (s.sr a).toNat) ga)) else .trap causePagePerm ga

/-- SEAL (R289). -/
def execSeal (h : Hdr) (d a b : SReg) (s : State) : Host.Outcome State Fault Refusal :=
  issue .A 1 h (sealAct (fun r ga => .seal d r ga) a b) s

/-- UNSEAL (R289). -/
def execUnseal (h : Hdr) (d a b : SReg) (s : State) : Host.Outcome State Fault Refusal :=
  issue .A 1 h (sealAct (fun r ga => .unseal d r ga) a b) s

end Sys2Proof.Machine
end

