-- ==== Sys2Proof/Machine/Publish.lean ====
section
/-! DEFINITION. Stores of software as they become visible: the ranges of the owner (R279, R283), and a region that becomes
ACTIVE with its pin list (R37, R38). -/

namespace Sys2Proof.Machine
open Sys2Proof

/-! ### Pin lists (R37) -/

/-- A pin entry: tile coordinate, slice offset, length. -/
structure Pin where
  coord : BitVec 16
  off : Nat
  len : Nat
deriving DecidableEq, Repr

/-- The pin entries of a region that are in use, by its effective list; none where its RCB cannot be read (R36, R37). (DEDUCED, log 42) -/
def pinList (g : Agent) (r : Nat) : M (Option (List Pin)) := do
  match ← chain g r with
  | none => return none
  | some l =>
    match effRung 3 l with
    | none => return some []
    | some x =>
      let of := fun (w : List Word) =>
        (w.map fun e => ⟨BitVec.ofNat 16 (fld e 63 48), fld e 47 24, fld e 23 0⟩).filter fun p : Pin => p.len != 0
      let s ← get
      if x.isGhost then return some (of ((List.range 8).map fun k => Config.brokenWord s.now (regionKey g r) (16 + k)))
      else
        match ← ask fun s => s.agentReads g (rcbAddr g x.r 16) 8 with
        | .error _ => return none
        | .ok w => return some (of w)

/-- The same where a failure is an error that cannot be pinned (R423). -/
def pins (g : Agent) (r : Nat) : M (List Pin) := do
  match ← pinList g r with
  | some l => return l
  | none => do
    unpinned g r (BitVec.ofNat 64 (rcbAddr g r 16))
    return []

/-- The pin list of a region that has become ACTIVE takes effect where its length fits BSRAM up to the root and no
entry touches a frame area (R37, R230). -/
def takePins (g : Agent) (r : Nat) : M Unit := do
  match ← chain g r with
  | none => pure ()
  | some l =>
    if chainActive l then
      let l ← pins g r
      let n := (l.map fun p => p.len).sum
      if n != 0 then
        let miss := (← fitsBudget g .sram r n).isSome || l.any fun p => decide (frameOff < p.off + p.len)
        match miss with
        | true => setStatus g r 3
        | false =>
          bill g .sram r n
          modify fun s => { s with pinned := s.pinned ++ [(g.who.ctx, BitVec.ofNat 32 r, n)] }

/-- The regions that software has made ACTIVE between two states, by context (R38). -/
def newlyActive (before after : State) : List (BitVec 16 × Nat) :=
  after.validCtxs.flatMap fun c =>
    let g := after.agent 0 c
    ((regionsIn g 1 after).1.filter fun r => (rcbState g r before).1 == some 0).map fun r => (c, r)

/-- Some written byte takes the value that STATE has for ACTIVE. -/
def writesOne (l : List (Nat × Byte × Byte)) : Bool := l.any fun c => c.2.1 &&& c.2.2 == 1

/-- The slices of a partition that a first context has been bound to are cleared for it: their full bits go (R112, DESIGN CHOICE, log 102). -/
def State.clearSlices (before after : State) : State :=
  let new := after.validCtxs.filter fun c => !before.ctxValid c
  let parts := (new.map after.ctxPart).filter fun p => before.validCtxs.all fun c => before.ctxPart c != p
  let tiles := parts.flatMap after.partTiles
  { after with full := after.full.filter fun a => !(isSlice a && tiles.contains (sliceTile a)) }

/-- What follows from a context that a store has made VALID, and from a region that one has made ACTIVE (R37, R38, R112). -/
def State.settle (before after : State) (l : List (Nat × Byte × Byte)) : State :=
  let after := if l.any fun c => before.ownRange c.1 then before.clearSlices after else after
  if !writesOne l then after
  else (newlyActive before after).foldl (fun s x => (takePins (s.agent 0 x.1) x.2 s).2) after

/-! ### Publication -/

/-- The stores of a committed chunk become visible: they join the committed stores on their way to their homes (R93,
R279). -/
def State.publish (s : State) (w : By) (l : List Store) : State :=
  let s1 : State := l.foldl (fun s st =>
    let (c, s) := s.letThrough w st.cells
    { s with wb := s.wb ++ [{ st with cells := c }] }) s
  s.settle s1 (l.flatMap fun st => st.cells)

/-- A store that is performed at its home at once (R119, R268). -/
def State.storeNow (s : State) (w : By) (pa : Nat) (b : List Byte) : State := s.settle (s.guardWrite w pa b) (cellsAt pa b)

/-- The same for masked cells. -/
def State.cellsNow (s : State) (w : By) (l : List (Nat × Byte × Byte)) : State :=
  let (c, s1) := s.letThrough w l
  s.settle (s1.writeCells c) l

end Sys2Proof.Machine
end

