-- ==== Sys2Proof/Machine/FabFail.lean ====
section
/-! DEFINITION. Routers: forwarding, ejection, links (R254 to R257, R262, R263, R282), and requests that fail (R267, R270,
R420). -/

namespace Sys2Proof.Machine
open Sys2Proof

/-! ### The requests of an agent -/

/-- Requests of an agent that are not answered: a tile, or the host die. -/
def State.reqs (s : State) (ag : Nat) : List RReq := if ag < 512 then (s.tileAt ag).remote else s.host.hostReqs

/-- Change them. -/
def State.modReqs (s : State) (ag : Nat) (f : List RReq → List RReq) : State :=
  if ag < 512 then s.modTile ag fun x => { x with remote := f x.remote } else s.modHost fun x => { x with hostReqs := f x.hostReqs }

/-- The request of a sequence number. -/
def State.findReq (s : State) (ag id : Nat) : Option RReq := (s.reqs ag).find? fun r => r.id == id

/-- Take a request away: a waiting one may take its place (R267). -/
def State.dropReq (s : State) (ag id : Nat) : State :=
  let s := s.modReqs ag fun l => l.filter fun r => r.id != id
  if ag < 512 then State.pump ag (s.tileAt ag).unsent.length s else s

/-- The key by which a request names a packet copy. -/
def PktRef.key (r : PktRef) : Nat := (r.ctx.toNat * 65536 + r.q.toNat) * 2 ^ 64 + r.idx

/-- Change the transfer that a request belongs to: of a channel of a tile, or of a packet copy. -/
def State.modXfer (s : State) (ag : Nat) (ch : BitVec 2) (key : Nat) (f : Xfer → Xfer) : State :=
  if ag < 512 then s.modTile ag fun x => { x with xfers := vset x.xfers ch.toNat ((vget x.xfers ch.toNat).map f) }
  else { s with dies := s.dies.map fun (d : Die) => { d with pktCopies := mapIf (fun p => p.ref.key == key) (fun p => { p with xfer := f p.xfer }) d.pktCopies } }

/-- The transfer that a request belongs to. -/
def State.xferOf (s : State) (ag : Nat) (ch : BitVec 2) (key : Nat) : Option Xfer :=
  if ag < 512 then vget (s.tileAt ag).xfers ch.toNat
  else (s.dies.toList.flatMap (·.pktCopies)).findSome? fun p => if p.ref.key == key then some p.xfer else none

/-- A fault of a transfer: the first one stays (R201). -/
def Xfer.fail (x : Xfer) (st : Byte) (ga : Word) : Xfer := { x with fault := match x.fault with | some f => some f | none => some (st, ga) }

/-- A request fails with a cause (R263, R267, R270, R420). -/
def State.failRequest (s : State) (ag : Nat) (r : RReq) (c : Byte) : State :=
  let s := s.dropReq ag r.id
  match r.fin with
  | .scalar .. | .vector .. => s.modTile ag fun x =>
      let d : Deferred := ⟨r.loadSeq, r.idx, c, r.ga, none⟩
      { x with deferred := match x.deferred with | some y => if y.seq ≤ d.seq then some y else some d | none => some d }
  | .atomic => s.bndFault ag c r.ga
  | .ack => s.reportLate (if ag < 512 then some ag else none) c r.ga
  | .lost => if r.kind == kLoad || r.kind == kAmo || r.kind == kCas then s else s.lostOp r.ga
  | .sector ch _ =>
    let late := match s.xferOf ag ch r.loadSeq with | some x => 512 ≤ ag || x.cmd.orphan | none => true
    let s := if late then s.lostOp r.ga else s
    s.modXfer ag ch r.loadSeq fun x => { x.fail (statusOf c) r.ga with unacked := x.unacked - 1, late := x.late || late && x.fault.isNone }
  | .pull ch => s.modXfer ag ch r.loadSeq fun x => x.fail (statusOf c) r.ga
  | .probe d src => s.modMig d fun m => { m with probes := m.probes.map fun l => l.filter (· != src) }
  | .word ctx va => { s with pulled := s.pulled ++ [⟨ctx, va, c, 0, false⟩] }

/-! ### Packets that fail (R263) -/

/-- The reverse route of a packet that has passed `k` hops (R263). -/
def reverseHops (hop : List Byte) (k : Nat) : List Byte :=
  (List.range k).map fun j =>
    let b := hop.getD (k - 1 - j) 0
    BitVec.ofNat 8 (hopPort b * 4 + (3 - hopLane b))

/-- A response over the reverse route of a packet (R263, R266); one that fails a check is dropped and counted. -/
def State.respond (s : State) (p : Packet) (kind : Nat) (body : List Byte) : State :=
  let q : Packet := { hop := reverseHops p.hop p.ptr, kind := kind, hops := p.ptr, ptr := 0, mc := true, plen := body.length / 32,
                      srcdev := s.host.devid, dstdev := p.srcdev, srcag := 0x200, res := 0, body := body }
  match s.launch q with
  | (s, none) => s
  | (s, some _) => s.modHost fun h => { h with errlost := satInc h.errlost }

/-- The sequence number in a command flit (R264). -/
def seqOf (body : List Byte) : Nat := ofBytes ((body.drop 12).take 4)

/-- The header word of a packet (R255). -/
def Packet.word (p : Packet) : List Byte := p.header.drop 24

/-- A router fails a packet (R263). -/
def State.failPacket (s : State) (p : Packet) (c : Byte) : State :=
  if p.mc then s.modHost fun h => { h with errlost := satInc h.errlost }
  else if p.ptr == 0 then
    match s.findReq p.srcag.toNat (seqOf p.body) with
    | some r => s.failRequest p.srcag.toNat r c
    | none => s
  else
    s.respond p kRouteerr (padFlits ([statusOf c, BitVec.ofNat 8 p.ptr] ++ toBytes 6 0 ++ p.word ++ (List.range 16).map fun i => p.body.getD i 0))

/-- The stores and reads of agents leave as requests of the host-die agent, the stores first (R55, R423, DESIGN CHOICE, log 14). -/
def State.sendNeeds (s : State) : State :=
  let posts := s.posts
  let needs := s.needs
  let s := posts.foldl (fun s q => match s.hostRequest q .lost 0 with
    | (s, some _) => s.lostOp q.ga
    | (s, none) => s) { s with posts := [], needs := [] }
  needs.foldl (fun s n =>
    let (ctx, va, q) := n
    if s.host.hostReqs.any (fun r => r.fin == .word ctx va) || s.pulled.any (fun p => p.ctx == ctx && p.va == va) then s
    else match s.hostRequest q (.word ctx va) 0 with
      | (s, some c) => { s with pulled := s.pulled ++ [⟨ctx, va, c, 0, false⟩] }
      | (s, none) => s) s

/-- PACKET_FORWARD: the head of the packets to send on (R256, R262). -/
def execPacketForward (s : State) : Host.Outcome State Fault Refusal :=
  let s := s.sendNeeds
  match s.host.outbound with
  | [] => .next s
  | p :: r =>
    let s1 := s.modHost fun h => { h with outbound := r }
    match s.hopCheck p with
    | some c => .next (s1.failPacket p c)
    | none =>
      let port := BitVec.ofNat 5 (hopPort (p.hop.getD p.ptr 0))
      .next (s1.modHost fun h => { h with sent := h.sent ++ [(port, { p with ptr := p.ptr + 1 })] })

/-- PACKET_EJECT: the last router compares DSTDEV (R262). -/
def execPacketEject (s : State) : Host.Outcome State Fault Refusal :=
  match s.host.arriving with
  | [] => .next s
  | p :: r =>
    let s1 := s.modHost fun h => { h with arriving := r }
    if p.dstdev != s.host.devid || p.kind == 0 || 10 < p.kind then .next (s1.failPacket p causeRouteBad)
    else .next (s1.modHost fun h => { h with inbound := h.inbound ++ [p] })

/-- A packet comes in on a port (R256). -/
def State.comeIn (s : State) (port : Nat) (p : Packet) : State :=
  let hop := if p.ptr == 0 then p.hop
    else p.hop.set (p.ptr - 1) (BitVec.ofNat 8 (port * 4 + hopLane (p.hop.getD (p.ptr - 1) 0)))
  let p := { p with hop := hop }
  s.modHost fun h => if p.ptr == p.hops then { h with arriving := h.arriving ++ [p] } else { h with outbound := h.outbound ++ [p] }

/-- Whole packets at the start of the bytes received, and the rest: a zero header flit is idle (R255, DEDUCED, log 17). -/
def framesOf : Nat → List Byte → List Packet × List Byte
  | 0, l => ([], l)
  | k + 1, l =>
    if l.length < 32 then ([], l)
    else
      let h := l.take 32
      if h.all (· == 0) then framesOf k (l.drop 32)
      else
        let n := 32 * (packetOf h []).plen
        if l.length < 32 + n then ([], l)
        else
          let (ps, r) := framesOf k (l.drop (32 + n))
          (packetOf h ((l.drop 32).take n) :: ps, r)

/-- A port goes down: its queued packets fail with ROUTE_DOWN (R263, R282). -/
def State.portDown (s : State) (p : Nat) : State :=
  let port := vget s.host.ports p
  if !port.up then s
  else
    let f := fun (k : Packet) => hopPort (k.hop.getD k.ptr 0) == p
    let bad := s.host.outbound.filter f
    let s := s.modHost fun h => { h with
      ports := vset h.ports p { port with up := false, downev := true, rx := [], tries := 0 }
      outbound := h.outbound.filter fun k => !f k }
    bad.foldl (fun s k => s.failPacket k causeRouteDown) s

/-- LINK_FRAME_RECEIVE: the eight flits of a frame, with the verdict on the CRC that its trailer carries (R254, DESIGN CHOICE, log 109).  A bad
frame is sent again, and the 16th in a row takes the link down; packets that come while EN is 0 are dropped (R257). -/
def execLinkFrameReceive (p : BitVec 5) (bytes : List Byte) (crcOk : Bool) (s : State) : Host.Outcome State Fault Refusal :=
  let port := vget s.host.ports p.toNat
  let set := fun (x : Port) => s.modHost fun h => { h with ports := vset h.ports p.toNat x }
  if !port.pen || !port.up || bytes.length != 256 then .next s
  else if !crcOk then
    if 16 ≤ port.tries + 1 then .next (s.portDown p.toNat) else .next (set { port with tries := port.tries + 1 })
  else
    let (ps, rest) := framesOf 64 (port.rx ++ bytes)
    let s1 := set { port with rx := rest, tries := 0 }
    .next (if s.host.en then ps.foldl (fun s k => s.comeIn p.toNat k) s1 else s1)

/-- LINK_DOWN (R254, R282). -/
def execLinkDown (p : BitVec 5) (s : State) : Host.Outcome State Fault Refusal := .next (s.portDown p.toNat)

/-- LINK_UP: the partner has trained the link of a port in use (R282). -/
def execLinkUp (p : BitVec 5) (s : State) : Host.Outcome State Fault Refusal :=
  let port := vget s.host.ports p.toNat
  if port.pen then .next (s.modHost fun h => { h with ports := vset h.ports p.toNat { port with up := true } }) else .next s

/-! ### Packets ejected here -/

/-- The first packet of a kind that may be taken: a response, or a request before which none of its source waits (R123,
R272). -/
def State.takePacket (s : State) (f : Packet → Bool) : Option (Packet × State) :=
  let l := s.host.inbound
  let ok := (List.range l.length).find? fun i =>
    match l[i]? with
    | some p => f p && (p.mc || (l.take i).all fun q => q.mc || !(q.srcdev == p.srcdev && q.srcag == p.srcag))
    | none => false
  match ok with
  | none => none
  | some i =>
    match l[i]? with
    | some p => some (p, s.modHost fun h => { h with inbound := h.inbound.eraseIdx i })
    | none => none

/-- FABRIC_ROUTEERR: the cause reaches the request that was dropped (R263, R270). -/
def execFabricRouteerr (s : State) : Host.Outcome State Fault Refusal :=
  match s.takePacket fun p => p.kind == kRouteerr with
  | none => .next s
  | some (p, s) =>
    let w := BitVec.ofNat 64 (ofBytes ((p.body.drop 8).take 8))
    let ag := fld w 18 9
    match s.findReq ag (seqOf (p.body.drop 16)) with
    | none => .next s
    | some r => .next (s.failRequest ag r (causeOf (p.body.getD 0 0)))

/-- Requests whose answer is overdue, oldest first, with their agents (R267). -/
def State.overdue (s : State) : List (Nat × RReq) :=
  if s.host.rtimeout == 0 then []
  else
    let l := (s.tiles.flatMap fun t => (s.tileAt t).remote.map fun r => (t, r)) ++ s.host.hostReqs.map fun r => (512, r)
    sortBy (fun a b : Nat × RReq => decide (a.2.sent < b.2.sent))
      (l.filter fun x => x.2.got.isNone && x.2.again == 0 && decide (s.host.rtimeout.toNat ≤ s.agentCyc x.1 - x.2.sent))

/-- REQUEST_TIMEOUT (R267). -/
def execRequestTimeout (s : State) : Host.Outcome State Fault Refusal :=
  match s.overdue with
  | [] => .next s
  | (ag, r) :: _ => .next ((s.modHost fun h => { h with tmo := satInc h.tmo }).failRequest ag r causeRouteDown)

end Sys2Proof.Machine
end

