-- ==== Sys2Proof/Machine/WinWrite.lean ====
section
/-! DEFINITION. Writes of the control windows: the register blocks of R62, R140, R214, R253, R281 and R297, the owner check
(R277 to R279), and the registers whose store does something. -/

namespace Sys2Proof.Machine
open Sys2Proof

/-- By whom a store is made (R279). -/
def State.byOf (s : State) : Writer → By
  | .host => ⟨1, 0⟩
  | .mc => ⟨2, 0⟩
  | .task t => ⟨if (s.tileAt t.toNat).priv then 1 else 0, 0⟩
  | .peer d => ⟨3, d⟩

/-! ### The scheduler block (R62) -/

/-- A store to CANCELREQ of die `d` (R57, R62): it goes to every die, and CANCSTAT reports the last one; dropped where the context is not
VALID. -/
def State.cancelReq (s : State) (d : Nat) (v : Word) : State :=
  let c := BitVec.ofNat 16 (fld v 63 48)
  let r := BitVec.ofNat 32 v.toNat
  if !s.ctxValid c then s
  else
    let no := (s.die d).cancNo + 1
    let s := s.modDie d fun x => { x with cctx := c, cregion := r, cbusy := true, cancNo := no, canccnt := 0 }
    s.pushOp (List.range 4) (.cancel (s.agentOf c r 512) r none d no none)

/-- Whether a second word of a Chorus class enables it (R62). -/
def chEnabled (v : Word) : Bool := fld v 15 0 != 0 && 1 ≤ fld v 22 16 && fld v 22 16 ≤ 64

/-- Whether a class holds nothing. -/
def ChClass.empty? (c : ChClass) : Bool := c.collecting.isEmpty && c.closing.isEmpty && c.backlog.isEmpty && c.closed.isNone

/-- Set the second word of a class. -/
def ChClass.setWord1 (c : ChClass) (v : Word) : ChClass :=
  { c with coord := BitVec.ofNat 16 (fld v 47 32), part := BitVec.ofNat 8 (fld v 31 24), bsize := BitVec.ofNat 7 (fld v 22 16),
           window := BitVec.ofNat 16 (fld v 15 0), pending := none }

/-- A store of word `k` of a Chorus class: one that disables it waits until it has emptied (R62). -/
def ChClass.store (c : ChClass) (k : Nat) (v : Word) : ChClass :=
  match k with
  | 0 => { c with region := BitVec.ofNat 32 (fld v 63 32), prog := BitVec.ofNat 32 (fld v 31 0) }
  | 1 => if !chEnabled v && !c.empty? then { c with pending := some v } else c.setWord1 v
  | 2 => { c with listbase := v }
  | _ => { c with userarg := v }

/-- A store in the scheduler block. -/
def schedWrite (d o : Nat) (v : Word) (s : State) : State :=
  if o == 0x028 then s.cancelReq d v
  else s.modDie d fun x =>
    if o == 0x008 then { x with spillbase := v }
    else if o == 0x010 then { x with segments := BitVec.ofNat 32 (fld v 63 32) }
    else if o == 0x018 then { x with margin := BitVec.ofNat 32 (fld v 63 32), rebalEn := bitAt v 0 }
    else if 0x110 ≤ o && o < 0x200 then
      let c := vget x.dl ((o - 0x110) / 16)
      let c := if o % 16 == 0 then { c with boost := BitVec.ofNat 32 (fld v 63 32), promote := BitVec.ofNat 32 (fld v 31 0) }
        else { c with limit := BitVec.ofNat 32 (fld v 63 32), dlmiss := BitVec.ofNat 16 (fld v 31 16), drop := bitAt v 0 }
      { x with dl := vset x.dl ((o - 0x110) / 16) c }
    else if 0x200 ≤ o && o < 0x400 then
      let i := (o - 0x200) / 32
      { x with ch := vset x.ch i ((vget x.ch i).store (o % 32 / 8) v) }
    else x

/-! ### The translation block (R140) -/

/-- A store to PAGEIN reaches a task that is still being saved for the page (R128). -/
def Tile.sawPage (x : Tile) (ctx : BitVec 16) (page : BitVec 36) : Tile :=
  match x.saving, x.task with
  | some (.park p _), some k => if p == page && k.ctx == ctx then { x with saving := some (.park p true) } else x
  | _, _ => x

/-- PAGEIN: the tasks parked on a page return to Queued, package-wide, in the order in which they parked (R128). -/
def State.pageIn (s : State) (v : Word) : State :=
  let ctx := BitVec.ofNat 16 (fld v 63 48)
  let page := BitVec.ofNat 36 (fld v 35 0)
  let f := fun (p : Parked) => p.page == page && p.entry.ctx == ctx
  let l := (List.range 4).flatMap fun d => ((s.die d).parked.filter f).map fun p => (d, p)
  let l := sortBy (fun a b : Nat × Parked => decide (a.2.order < b.2.order)) l
  let s : State := { s with dies := s.dies.map fun (d : Die) => { d with parked := d.parked.filter fun p => !f p } }
  let s : State := s.tiles.foldl (fun s t => s.modTile t fun x => x.sawPage ctx page) s
  l.foldl (fun s x =>
    let g := s.agent x.1 ctx
    let r := x.2.entry.blk.region.toNat
    match rcbState g r s with
    | (some 1, s) =>
      let d := s.holdDie g.part x.2.entry.blk.coord x.1
      let c := (s.die d).cyc.toNat
      (heapArrive g d { x.2.entry with enq := c } s).2
    | (some _, s) => ((bill g .queue r (-1) s).2).freeBuffer x.2.entry.buffer
    | (none, s) => ((unpinned g r (BitVec.ofNat 64 (rcbAddr g r 0)) s).2).freeBuffer x.2.entry.buffer) s

/-- KVFREE (R138, R140). -/
def State.kvFree (s : State) (d : Nat) (v : Word) : State := (pushKv d v.toNat (s.modDie d fun x => { x with kvfree := v })).2

/-- POISONCLR: the block leaves every die's poison list; a place freed ends the overflow (R136, R140). -/
def State.poisonClr (s : State) (d : Nat) (v : Word) : State :=
  let hit := s.poison.contains v.toNat
  let s := s.modDie d fun x => { x with poisonclr := v }
  if hit then { s with poison := s.poison.filter (· != v.toNat), povf := false } else s

/-- Set MSTATE and GEN of the frame record of a frame of this device (R137). -/
def State.setFrame (s : State) (frame : Nat) (ms : Nat) (gen : Option Byte) : State :=
  let a := s.frameRec frame
  let w := setFld (s.home64 a) 31 28 ms
  s.homeWrite64 a (match gen with | some g => setFld w 27 20 g.toNat | none => w)

/-- Whether the new home of a migration is this device. -/
def Migration.isHere (m : Migration) : Bool := m.ndev == 0xFFF

/-- MIGCMD with START: the old frame becomes MIGRATING and the new one INCOMING with the new GEN; ignored while a
migration runs (R139, R140). -/
def State.migStartAt (s : State) (d : Nat) : State :=
  let x := s.die d
  let busy := match x.mig with | some m => !(m.newState == 0 || m.newState == 4) | none => false
  if busy then s
  else
    let m : Migration := { old := x.migold.toNat / 0x10000 * 0x10000, new := x.nframe.toNat * 0x10000, ndev := x.ndev, ngen := x.ngen,
                           oldState := 1, newState := 2, filled := false, sources := [], routes := [], probes := none, applied := [] }
    let s := s.modDie d fun x => { x with mig := some m }
    let s := s.setFrame m.old 1 none
    if m.isHere then s.setFrame m.new 2 (some m.ngen) else s

/-- MIGCMD with DONE: a probe to each source of an access since START (R139); while MIGSTAT is not FILLING it is ignored (DESIGN CHOICE, log 106). -/
def State.migDoneAt (s : State) (d : Nat) : State :=
  match (s.die d).mig with
  | none => s
  | some m =>
    if m.newState != 3 || m.probes.isSome then s
    else
      let key := fun (i : Nat) => 0x100000000 + i
      let s := s.modMig d fun m => { m with probes := some (m.sources.filter (· < 512) ++ (List.range m.routes.length).map key) }
      (List.range m.routes.length).foldl (fun s i =>
        let r := m.routes.getD i (0, 0, [])
        let src := key i
        let n := s.host.hostSeq
        let q : Request := ⟨kProbe, 0, r.1, 0, 0, m.old, some m.ngen, 0, BitVec.ofNat 64 r.2.1.toNat, 0, []⟩
        let body := q.body n
        let p : Packet := { hop := r.2.2, kind := kProbe, hops := r.2.2.length, ptr := 0, mc := false, plen := body.length / 32,
                            srcdev := s.host.devid, dstdev := r.1, srcag := 0x200, res := 0, body := body }
        let s := s.modHost fun h => { h with hostSeq := h.hostSeq + 1 }
        match s.launch p with
        | (s, some _) => s.modMig d fun m => { m with probes := m.probes.map fun l => l.filter (· != src) }
        | (s, none) =>
          let rq : RReq := { id := n.toNat, kind := kProbe, ga := 0, pdev := r.1, slot := 0, body := body, sent := s.host.cyc.toNat,
                             fin := .probe d src, loadSeq := 0, part := 0, got := none, idx := 0, again := 0 }
          s.modHost fun h => { h with hostReqs := h.hostReqs ++ [rq] }) s

/-- A store in the translation block. -/
def xlateWrite (d o : Nat) (v : Word) (s : State) : State :=
  match o / 8 with
  | 0 => s.modDie d fun x => { x with stale := x.stale && !bitAt v 4, kvbad := x.kvbad && !bitAt v 3,
                                      kvempty := x.kvempty && !bitAt v 2, twinused := x.twinused && !bitAt v 0 }
  | 2 => s.modDie d fun x => { x with fmbase := v }
  | 3 => s.modDie d fun x => { x with kvframes := BitVec.ofNat 20 (fld v 63 44), kvarena := BitVec.ofNat 28 (fld v 43 16) }
  | 4 => s.modDie d fun x => { x with kvpoolbase := v }
  | 5 => s.modDie d fun x => { x with kvpoolcap := BitVec.ofNat 32 (fld v 63 32), kvpoolcnt := BitVec.ofNat 32 (fld v 31 0) }
  | 6 => s.kvFree d v
  | 7 => (s.modDie d fun x => { x with pagein := pack [(fld v 63 48, 48), (fld v 35 0, 0)] }).pageIn v
  | 8 => s.poisonClr d v
  | 9 => s.modDie d fun x => { x with migold := v }
  | 10 => s.modDie d fun x => { x with ndev := BitVec.ofNat 12 (fld v 63 52), nframe := BitVec.ofNat 28 (fld v 43 16) }
  | 11 =>
    let s := s.modDie d fun x => { x with ngen := BitVec.ofNat 8 (fld v 7 0), migStart := bitAt v 8, migDone := bitAt v 9 }
    let s := if bitAt v 8 then s.migStartAt d else s
    if bitAt v 9 then s.migDoneAt d else s
  | _ => s

/-! ### The NSM and containment blocks (R214, R253) -/

/-- A store in the NSM block. -/
def nsmWrite (d o : Nat) (v : Word) (s : State) : State :=
  if o == 8 then s.modDie d fun x => { x with rembad := x.rembad && !bitAt v 2, badfree := x.badfree && !bitAt v 1, badwalk := x.badwalk && !bitAt v 0 }
  else s

/-- A store to INTR: INTERRUPT on the tile's running task, or discarded (R227, R253). -/
def State.intrStore (s : State) (t : Nat) (v : Word) : State :=
  s.modTile t fun x => if x.task.isNone then x else
    { x with intrReg := BitVec.ofNat 16 v.toNat, intr := some (BitVec.ofNat 16 v.toNat), wake := true }

/-- A store to WAKE: a wake message (R242, R253). -/
def State.wakeStore (s : State) (t : Nat) (v : Word) : State := s.modTile t fun x => { x with wake := true, wakeReg := bitAt v 0 }

/-- A store to PREQ: a request of pre-emption stays pending (R236, R253). -/
def State.preqStore (s : State) (t : Nat) (v : Word) : State :=
  let c := (s.die (dieOf t)).cyc.toNat
  s.modTile t fun x => if x.task.isNone || !bitAt v 0 then x else { x with preq := some (x.preq.getD c), wake := true }

/-- A store in the containment block. -/
def containWrite (d o : Nat) (v : Word) (s : State) : State :=
  if o == 0x000 then s.modDie d fun x => { x with savebase := v }
  else if o == 0x008 then s.modDie d fun x => { x with slots := BitVec.ofNat 32 (fld v 63 32) }
  else if 0x100 ≤ o && o < 0x500 then s.intrStore (localTile d ((o - 0x100) / 8)) v
  else if 0x500 ≤ o && o < 0x900 then s.wakeStore (localTile d ((o - 0x500) / 8)) v
  else if 0x900 ≤ o && o < 0xD00 then s.preqStore (localTile d ((o - 0x900) / 8)) v
  else s

/-! ### The fabric block (R257, R261, R277 to R282) -/

/-- OWNERBRK by the management controller: where OWNER does not hold the value, the store is ignored (R278). (DEDUCED, log 50) -/
def State.ownerBreak (s : State) (v : Word) : State :=
  if s.host.owner == v then s.modHost fun x => { x with ownerbrk := v, owner := BitVec.ofNat 64 (2 * 2 ^ 62) } else s

/-- A store to the staging image of a slot; one to bytes 24 to 31 checks the image and writes the slot at once (R261). -/
def State.slotStore (s : State) (n o : Nat) (v : Word) : State :=
  let img := slotBytes s.host.staging n
  let img := (List.range 32).map fun i => if o ≤ i && i < o + 8 then BitVec.ofNat 8 (v.toNat / 2 ^ (8 * (i - o))) else img.getD i 0
  let s := s.modHost fun x => { x with staging := setSlot x.staging n img }
  if o < 24 then s
  else if imageOk img then s.modHost fun x => { x with slots := setSlot x.slots n img }
  else s.modHost fun x => { x with badimg := true }

/-- Whether a partition is valid (R280). -/
def State.partValid (s : State) (part : Nat) : Bool :=
  let l := (s.host.pmap.filterMap fun e => s.place e.1).filter fun p => p.1 == part
  let n := l.length
  let w := s.partWidth part
  (List.range n).all (fun i => (l.filter fun p => p.2 == i).length == 1) && 4 ≤ n && w ≤ n && w ≤ 255 && ceilDiv n w ≤ 255

/-- A write of the partition map or the widths, dropped where it would leave a bound partition invalid (R280). -/
def State.partChange (s : State) (f : HostDie → HostDie) : State :=
  let s1 := s.modHost f
  let bound := s.validCtxs.map fun c => s.ctxPart c
  if bound.all fun p => s1.partValid p then s1 else s.modHost fun x => { x with badpart := true }

/-- A store of 8 bytes to PMAP: two entries. -/
def State.pmapStore (s : State) (i : Nat) (v : Word) : State :=
  let e := fun (k : Nat) => BitVec.ofNat 32 (fld v (32 * k + 31) (32 * k + 15) * 2 ^ 15)
  s.partChange fun x => { x with pmap := Assoc.set 0 (i + 1) (e 1) (Assoc.set 0 i (e 0) x.pmap) }

/-- A store of 8 bytes to PWIDTH: two entries. -/
def State.pwidthStore (s : State) (i : Nat) (v : Word) : State :=
  s.partChange fun x => { x with pwidth := Assoc.set 0 (i + 1) (BitVec.ofNat 10 (fld v 41 32)) (Assoc.set 0 i (BitVec.ofNat 10 (fld v 9 0)) x.pwidth) }

/-- A store to a port's word: PEN, and DOWNEV by writing 1; a port with PEN cleared goes down at once (R281, R282). -/
def State.portStore (s : State) (p : Nat) (v : Word) : State :=
  let s := s.modHost fun x =>
    let k := vget x.ports p
    { x with ports := vset x.ports p { k with pen := bitAt v 2, downev := k.downev && !bitAt v 0 } }
  if bitAt v 2 then s else s.portDown p

/-- A store in the fabric block. -/
def fabricWrite (o : Nat) (v : Word) (s : State) : State :=
  if 0x100 ≤ o && o < 0x200 then s.portStore ((o - 0x100) / 8) v
  else if 0x1000 ≤ o && o < 0x1800 then s.pmapStore ((o - 0x1000) / 4) v
  else if 0x1800 ≤ o && o < 0x1A00 then s.pwidthStore ((o - 0x1800) / 4) v
  else if 0x8000 ≤ o && o < 0x10000 then s.slotStore ((o - 0x8000) / 32) (o % 32) v
  else s.modHost fun x =>
    if o == 0x000 then { x with en := bitAt v 12, devid := if x.en then x.devid else BitVec.ofNat 12 (fld v 11 0) }
    else if o == 0x008 then { x with ctxbase := v }
    else if o == 0x010 then { x with rtimeout := BitVec.ofNat 32 (fld v 63 32), fwdcap := BitVec.ofNat 32 (fld v 31 0) }
    else if o == 0x018 then { x with fwdbase := v }
    else if o == 0x020 then { x with badimg := x.badimg && !bitAt v 0 }
    else if o == 0x038 then { x with ownerbrk := v }
    else if o == 0x040 then { x with badpart := x.badpart && !bitAt v 0 }
    else if 0x800 ≤ o && o < 0x1000 then { x with vfmap := Assoc.set 0 ((o - 0x800) / 8) v x.vfmap }
    else x

/-! ### The power block (R297) -/

/-- A store in the power block. -/
def powerWrite (o : Nat) (v : Word) (s : State) : State :=
  s.modHost fun x =>
    if o == 0x000 then { x with plimit := BitVec.ofNat 32 (fld v 31 0) }
    else if o == 0x008 then { x with physt := BitVec.ofNat 16 (fld v 63 48), kmin := BitVec.ofNat 4 (fld v 39 36) }
    else if 0x100 ≤ o && o < 0x200 then
      let j := (o - 0x100) / 16
      let t := vget x.thresholds j
      let t := if o % 16 == 0 then { t with sel := BitVec.ofNat 4 (fld v 63 60), dir := bitAt v 59, en := bitAt v 58, level := BitVec.ofNat 32 (fld v 31 0) }
        else { t with blk := v }
      { x with thresholds := vset x.thresholds j t }
    else if o == 0x200 then { x with tenbase := v }
    else if o == 0x208 then { x with qtimeout := BitVec.ofNat 32 (fld v 63 32), measlock := x.measlock && !bitAt v 0 }
    else x

/-! ### The window as a whole -/

/-- A store that the owner check lets pass, at offset `off` from 0x0008_0000_0000. -/
def State.windowSet (s : State) (off : Nat) (v : Word) : State :=
  let w := off / 0x10000000
  let o := off % 0x10000000
  let b := o % 0x10000
  if w < 4 then
    match o / 0x10000 with
    | 0 => schedWrite w b v s
    | 1 => xlateWrite w b v s
    | 2 => nsmWrite w b v s
    | 3 => containWrite w b v s
    | _ => s
  else
    match o / 0x10000 with
    | 0 => fabricWrite b v s
    | 2 => powerWrite b v s
    | _ => s

/-- An 8-byte store to the control windows (R104, R277 to R279). -/
def State.windowWrite (s : State) (w : By) (off : Nat) (v : Word) : State :=
  if off == ownerOff then s.refuse
  else if off == ownerBrkOff && w.kind == 2 then s.ownerBreak v
  else if s.host.isOwner w.kind w.dev then s.windowSet off v
  else s.refuse

/-! ### The events -/

/-- CANCELREQ: a store of the owner (R62). (DEDUCED, log 93) -/
def execCancelreq (d : DieNo) (v : Word) (s : State) : Host.Outcome State Fault Refusal := .next (s.cancelReq d.toNat v)

/-- CHCLS_WRITE: a disabling write of class `k` (1 to 16) takes effect once the class has emptied (R62). -/
def execChclsWrite (d : DieNo) (k : BitVec 5) (s : State) : Host.Outcome State Fault Refusal :=
  .next (s.modDie d.toNat fun x =>
    let i := k.toNat - 1
    let c := vget x.ch i
    match c.pending with
    | some v => if k != 0 && c.empty? && !(x.chIn.any fun e => e.blk.bclass.toNat == k.toNat) then { x with ch := vset x.ch i (c.setWord1 v) } else x
    | none => x)

/-- PAGEIN: a store of the owner (R128, R140). -/
def execPagein (d : DieNo) (v : Word) (s : State) : Host.Outcome State Fault Refusal := .next (xlateWrite d.toNat 0x38 v s)

/-- KVFREE: a store of the owner (R138, R140). -/
def execKvfree (d : DieNo) (v : Word) (s : State) : Host.Outcome State Fault Refusal := .next (s.kvFree d.toNat v)

/-- POISONCLR: a store of the owner (R136, R140). -/
def execPoisonclr (d : DieNo) (v : Word) (s : State) : Host.Outcome State Fault Refusal := .next (s.poisonClr d.toNat v)

/-- MIGCMD_START: the owner writes START = 1, with the other fields of MIGCMD as they stand (R139). -/
def execMigcmdStart (d : DieNo) (s : State) : Host.Outcome State Fault Refusal :=
  .next ((s.modDie d.toNat fun x => { x with migStart := true }).migStartAt d.toNat)

/-- MIGCMD_DONE: the owner writes DONE = 1 (R139). -/
def execMigcmdDone (d : DieNo) (s : State) : Host.Outcome State Fault Refusal :=
  .next ((s.modDie d.toNat fun x => { x with migDone := true }).migDoneAt d.toNat)

/-- INTR: a store of the owner (R253). -/
def execIntr (t : TileNo) (v : Word) (s : State) : Host.Outcome State Fault Refusal := .next (s.intrStore t.toNat v)

/-- WAKE: a store of the owner, of a 1 (R253). -/
def execWake (t : TileNo) (s : State) : Host.Outcome State Fault Refusal := .next (s.wakeStore t.toNat 1)

/-- PREQ: a store of the owner (R253). -/
def execPreq (t : TileNo) (v : Word) (s : State) : Host.Outcome State Fault Refusal := .next (s.preqStore t.toNat v)

/-- OWNER: a compare-and-swap of an agent, whose answer is the value found (R277).  An unprivileged task reaches no control
window (R104). -/
def execOwner (who : Writer) (expect v : Word) (s : State) : Host.Outcome State Fault Refusal :=
  if (s.byOf who).kind == 0 then .next s
  else
    let (s, old) := s.ownerSwap expect v
    .next (s.modHost fun x => { x with answer := .value old })

/-- OWNERBRK: a store of the management controller (R278). -/
def execOwnerbrk (v : Word) (s : State) : Host.Outcome State Fault Refusal := .next (s.ownerBreak v)

/-- SLOT_STAGE_WRITE: a store to word `off` of bytes 0 to 23 of a slot's window (R261). -/
def execSlotStageWrite (slot : BitVec 10) (off : BitVec 5) (v : Word) (who : Writer) (s : State) : Host.Outcome State Fault Refusal :=
  let o := off.toNat / 8 * 8
  if o < 24 then .next (s.windowWrite (s.byOf who) (0x40008000 + 32 * slot.toNat + o) v) else .next s

/-- SLOT_COMMIT_WRITE: a store to bytes 24 to 31 (R261, R365). -/
def execSlotCommitWrite (slot : BitVec 10) (v : Word) (who : Writer) (s : State) : Host.Outcome State Fault Refusal :=
  .next (s.windowWrite (s.byOf who) (0x40008000 + 32 * slot.toNat + 24) v)

/-- PMAP_WRITE: a store to the word that holds entry `i` (R280). -/
def execPmapWrite (i : TileNo) (v : Word) (who : Writer) (s : State) : Host.Outcome State Fault Refusal :=
  .next (s.windowWrite (s.byOf who) (0x40001000 + i.toNat / 2 * 8) v)

/-- PORT_ENABLE_WRITE (R281, R282). -/
def execPortEnableWrite (p : BitVec 5) (v : Word) (who : Writer) (s : State) : Host.Outcome State Fault Refusal :=
  .next (s.windowWrite (s.byOf who) (0x40000100 + 8 * p.toNat) v)

/-- TENANT_RECORD_WRITE: an 8-byte store to a physical address of the tenant records, at the homes that guard them
(R279, R283). -/
def execTenantRecordWrite (addr : BitVec 44) (v : Word) (who : Writer) (s : State) : Host.Outcome State Fault Refusal :=
  let a := addr.toNat / 8 * 8
  let b := s.host.tenbase.toNat
  if b != 0 && b ≤ a && a < b + 0x800000 && isDram a then .next (s.storeNow (s.byOf who) a (toBytes 8 v.toNat)) else .next s

/-- REGISTER_WRITE: an 8-byte store to a local address of the control windows (R104, R279). -/
def execRegisterWrite (addr : BitVec 52) (v : Word) (who : Writer) (s : State) : Host.Outcome State Fault Refusal :=
  match spaceOf addr.toNat with
  | .window off => if off % 8 == 0 && off < 0x50000000 then .next (s.windowWrite (s.byOf who) off v) else .next s
  | _ => .next s

end Sys2Proof.Machine
end

