-- ==== Sys2Proof/Machine/FabTarget.lean ====
section
/-! DEFINITION. Requests of other devices at their target (R123, R139, R264 to R269, R274, R421). -/

namespace Sys2Proof.Machine
open Sys2Proof

/-- A command flit with its data (R264). -/
structure Flit where
  addr : Nat
  seq : BitVec 32
  rctx : BitVec 16
  phys : Bool
  opc : Nat
  gen : Byte
  oper0 : Word
  oper1 : Word
  data : List Byte
  /-- An access of this device's own agent that a migration has brought back (R139). -/
  own : Bool
deriving DecidableEq, Repr

/-- The command flit of a body. -/
def flitOf (b : List Byte) : Flit :=
  let w := fun k => BitVec.ofNat 64 (ofBytes ((b.drop (8 * k)).take 8))
  { addr := fld (w 0) 51 0, seq := BitVec.ofNat 32 (fld (w 1) 63 32), rctx := BitVec.ofNat 16 (fld (w 1) 31 16), phys := bitAt (w 1) 15,
    opc := fld (w 1) 14 8, gen := BitVec.ofNat 8 (fld (w 1) 7 0), oper0 := w 2, oper1 := w 3, data := b.drop 32, own := false }

/-- An answer: status, the word of a REDIRECT, data; or the request must wait for stores on the way to its place. -/
inductive Answer
  | reply (st : Byte) (w : Word) (data : List Byte) (s : State)
  | wait

/-- An answer without data. -/
def Answer.bare (st : Nat) (s : State) : Answer := .reply (BitVec.ofNat 8 st) 0 [] s

/-- A fault at the target (R202, R266). -/
def Answer.fault (c : Byte) (s : State) : Answer := .reply (statusOf c) 0 [] s

/-- From where a request comes: the number that stands for its source (R139), and by what it writes (R279). -/
structure From where
  src : Nat
  by_ : By
deriving DecidableEq, Repr

/-- The number of a source on another device. -/
def remoteSrc (dev : BitVec 12) (ag : BitVec 10) : Nat := 0x400 + dev.toNat * 0x400 + ag.toNat

/-- The agent that a request of a context acts as: PRIV is the context's (R268), and no tile is its own. -/
def State.targetAgent (s : State) (ctx : BitVec 16) : Agent :=
  ⟨s.headDie (s.ctxPart ctx), s.agentOf ctx 0 512, s.ctxPart ctx, []⟩

/-- The word of a REDIRECT reply: GEN, device and frame of the new home (DEDUCED, log 17). -/
def redirectWord (nd : BitVec 12) (gen : Byte) (pa : Nat) : Word := pack [(gen.toNat, 56), (nd.toNat, 44), (pa / 0x10000 * 0x10000, 0)]

/-! ### Places (R268, R269) -/

/-- A local address of a context for a request: place, or the cause of its failure.  Flat SRAM is that of the context's partition; a node has the
number by which the context's own words name it (R207, R268, DESIGN CHOICE, log 107). -/
def State.targetPlace (s : State) (g : Agent) (core : Bool) (la n : Nat) (use : Use) : State × Except Byte Place :=
  match spaceOf la with
  | .flat sl off =>
    match s.flatPlace g core sl off n 0 with
    | .ok p => (s, .ok p)
    | .error _ => (s, .error causePagePerm)
  | .nsm k => (s, .ok (.node k))
  | .window off => (s, .ok (.window off))
  | .paged =>
    match s.walk g.die (s.partCount g.part) g.who.root la with
    | (s, .fault c) => (s, .error c)
    | (s, .absent ..) => (s, .error causePageAbsent)
    | (s, .leaf w0 w1 lvl _) =>
      let l : Leaf := ⟨w0, w1, lvl == 1⟩
      if leafRefuses s g.who l use then (s, .error causePagePerm)
      else
        match s.device g.who.ctx l.rdev with
        | none => (s, .error causeRouteBad)
        | some (.there ..) => (s, .error causeRouteDown)
        | some .here => (s, .ok (.mem (l.pa la) (some l)))
  | .none => (s, .error causePagePerm)

/-- The place of a request: physical under PHYSOK, else in its context, which must be VALID. -/
def State.requestPlace (s : State) (c : Flit) (core : Bool) (la n : Nat) (use : Use) : State × Except Byte Place :=
  if c.phys then
    if (c.own || bitAt (s.ctxWord c.rctx 1) 29) && isDram la && isDram (la + n - 1) then (s, .ok (.mem la none)) else (s, .error causePagePerm)
  else if !s.ctxValid c.rctx then (s, .error causePagePerm)
  else s.targetPlace (s.targetAgent c.rctx) core la n use

/-- The generation that an access carries: of its flit, or of the target's own translation. -/
def Flit.genAt (c : Flit) (l : Option Leaf) : Option Byte := if c.phys then some c.gen else l.map (·.gen)

/-- The pieces of [la, la + n) by 64 KiB granule: (offset, length). -/
def granules (la n : Nat) : List (Nat × Nat) :=
  (List.range ((la + n - 1) / 0x10000 - la / 0x10000 + 1)).map fun i =>
    let lo := max la ((la / 0x10000 + i) * 0x10000)
    (lo - la, min (la + n) ((la / 0x10000 + i + 1) * 0x10000) - lo)

/-! ### Loads -/

/-- Read one piece of a load: status and bytes; a read of nodes does not go beyond those of its die (R353). -/
def State.servePiece (s : State) (c : Flit) (la n : Nat) : State × Except (Byte × Word) (List Byte) :=
  match s.requestPlace c true la n .rd with
  | (s, .error e) => (s, .error (statusOf e, 0))
  | (s, .ok (.mem pa l)) =>
    let rd := fun (s : State) (pa : Nat) =>
      let (s, bad) := s.sense pa n
      if bad then (s, Except.error (statusOf causePoisonData, (0 : Word))) else (s, .ok (toBytes n (s.home pa n)))
    match c.genAt l with
    | none => rd s pa
    | some g =>
      match s.homeAnswer pa g false with
      | .apply => rd s pa
      | .stale => (s, .error (1, 0))
      | .again => (s, .error (3, 0))
      | .redirect p ng nd =>
        if nd != 0xFFF then (if c.phys then (s, .error (2, redirectWord nd ng p)) else (s, .error (3, 0)))
        else if fld (s.home64 (s.frameRec p)) 31 28 == 3 && !s.undrained (pa / 0x10000 * 0x10000) 0x10000 then rd s p
        else (s, .error (3, 0))
  | (s, .ok (.node k)) =>
    let first := k
    let last := (la + n - 1 - 0x100000000) / 32
    if 2 ^ 20 < (c.addr - 0x100000000) / 32 % 2 ^ 20 + fld c.oper1 7 0 then (s, .error (statusOf causePagePerm, 0))
    else if s.ownsNodes c.rctx first (last - first + 1) then
      let pa := nodeBase 0 + (la - 0x100000000)
      let (s, bad) := s.sense pa n
      if bad then (s, .error (statusOf causePoisonData, 0)) else (s, .ok (toBytes n (s.home pa n)))
    else (s, .error (statusOf causePagePerm, 0))
  | (s, .ok (.window off)) =>
    if !bitAt (s.ctxWord c.rctx 1) 30 then (s, .error (statusOf causePagePerm, 0))
    else if n != 8 || la % 8 != 0 then (s, .error (statusOf causeMisalign, 0))
    else (s, .ok (toBytes 8 (s.windowRead off).toNat))
  | (s, .ok _) => (s, .error (statusOf causePagePerm, 0))

/-- Read the pieces in ascending order; the first failure decides. -/
def State.servePieces (s : State) (c : Flit) : List (Nat × Nat) → State × Except (Byte × Word) (List Byte)
  | [] => (s, .ok [])
  | (o, n) :: r =>
    match s.servePiece c (c.addr + o) n with
    | (s, .error e) => (s, .error e)
    | (s, .ok b) =>
      match s.servePieces c r with
      | (s, .error e) => (s, .error e)
      | (s, .ok t) => (s, .ok (b ++ t))

/-- The bytes of an access by its size code; none for a code outside the table (R265). -/
def Flit.bytes (c : Flit) : Option Nat :=
  match c.opc with
  | 0 => some 1 | 1 => some 2 | 2 => some 4 | 3 => some 8
  | 4 => let n := fld c.oper0 7 0; if 1 ≤ n && n ≤ 224 then some n else none
  | _ => none

/-- LOAD. -/
def State.serveLoad (s : State) (c : Flit) : Answer :=
  match c.bytes with
  | none => .fault causePagePerm s
  | some n =>
    match s.servePieces c (granules c.addr n) with
    | (s, .ok b) => .reply 0 0 b s
    | (s, .error (st, w)) => .reply st w [] s

/-! ### Stores -/

/-- The home's answer to a store or atomic of a request at `pa` (R139): a frame that is FILLING takes it as redirected, once
in the order of its source (DEDUCED, log 24). -/
inductive Homed
  | at_ (pa : Nat) (s : State)
  | done (s : State)
  | answer (a : Answer)

/-- Bring a store or atomic to its home. -/
def State.homed (s : State) (f : From) (c : Flit) (pa : Nat) (l : Option Leaf) : Homed :=
  let g := c.genAt l
  let filling := g.isSome && (s.die (homeDie pa)).fmbase != 0 && fld (s.home64 (s.frameRec pa)) 31 28 == 3
  let dup := filling && match s.migOf false pa with
    | some (_, m) => (match m.applied.find? fun e => e.1 == f.src with | some e => !seqBefore e.2 c.seq | none => false)
    | none => false
  if dup then .done s
  else
    match s.arriveHome f.src c.seq pa g filling with
    | .apply pa s => .at_ pa s
    | .stale s => .answer (.bare 1 s)
    | .wait => .answer (.bare 3 s)
    | .away nd p ng s => .answer (if c.phys then .reply 2 (redirectWord nd ng p) [] s else .bare 3 s)

/-- Store the pieces in ascending order; the first failure decides. -/
def State.serveStores (s : State) (f : From) (c : Flit) (core : Bool) (data : List Byte) : List (Nat × Nat) → Answer
  | [] => .bare 0 s
  | (o, n) :: r =>
    match s.requestPlace c core (c.addr + o) n .wr with
    | (s, .error e) => .fault e s
    | (s, .ok (.mem pa l)) =>
      match s.homed f c pa l with
      | .answer a => a
      | .done s => s.serveStores f c core data r
      | .at_ pa s => (s.storeNow f.by_ pa ((data.drop o).take n)).serveStores f c core data r
    | (s, .ok (.window off)) =>
      if !core then .fault causePagePerm s
      else if n != 8 || c.addr % 8 != 0 then .fault causeMisalign s
      else .bare 0 (s.windowWrite f.by_ off (BitVec.ofNat 64 (ofBytes ((data.drop o).take 8))))
    | (s, .ok _) => .fault causePagePerm s

/-- The field store of an NST at an owned node (R209, R265); at another it is dropped, refused and BADWALK (R208, R355). -/
def State.serveNst (s : State) (f : From) (c : Flit) : Answer :=
  match nfieldOf (c.opc % 16), s.requestPlace c true c.addr 1 .wr with
  | some fd, (s, .ok (.node k)) =>
    if c.phys then .fault causePagePerm s
    else if !s.ownsNodes c.rctx k 1 then .fault causePagePerm (s.modDie (k / 2 ^ 20) fun x => { x with badwalk := true, errnode := nodeRef k })
    else .bare 0 (s.cellsNow f.by_ (nstCells k fd c.oper0))
  | _, (s, .error e) => .fault e s
  | _, (s, _) => .fault causePagePerm s

/-- STORE. -/
def State.serveStore (s : State) (f : From) (c : Flit) : Answer :=
  if c.opc / 32 == 2 then s.serveNst f c
  else
    match c.bytes with
    | none => .fault causePagePerm s
    | some n => s.serveStores f c true ((List.range n).map fun i => c.data.getD i 0) (granules c.addr n)

/-- COPYDATA: a sector of at most 224 bytes, their number in OPER (DEDUCED, log 17); an engine write. -/
def State.serveCopy (s : State) (f : From) (c : Flit) : Answer :=
  let n := fld c.oper0 7 0
  if n == 0 || 224 < n then .fault causePagePerm s
  else s.serveStores f c false ((List.range n).map fun i => c.data.getD i 0) (granules c.addr n)

/-! ### Atomics and far operations -/

/-- A read-modify-write of a request (R118, R268): `back` returns the value. -/
def State.serveRmw (s : State) (f : From) (c : Flit) (n : Nat) (r : Rmw) (back : Bool) : Answer :=
  if c.addr % n != 0 then .fault causeMisalign s
  else
    match s.requestPlace c true c.addr n .atomic with
    | (s, .error e) => .fault e s
    | (s, .ok (.mem pa l)) =>
      if (match l with | some x => decide (2 ≤ x.fmt) | none => false) then .fault causePageFormat s
      else if s.undrained pa n then .wait
      else
        match s.homed f c pa l with
        | .answer a => a
        | .done s => .reply 0 0 (if back then toBytes n (s.home pa n) else []) s
        | .at_ pa s =>
          let (s, bad) := s.sense pa n
          if bad then .fault causePoisonData s
          else
            let old := s.home pa n
            let s1 := (s.rmw f.by_ r pa n).1
            .reply 0 0 (if back then toBytes n old else []) (s.settle s1 (cellsAt pa (toBytes n (r.new n old))))
    | (s, .ok (.window off)) =>
      match r with
      | .cas e v =>
        if off == ownerOff && n == 8 && back && bitAt (s.ctxWord c.rctx 1) 30 then
          let (s, old) := s.ownerSwap e v
          .reply 0 0 (toBytes 8 old.toNat) s
        else .fault causePagePerm s
      | .amo .. => .fault causePagePerm s
    | (s, .ok _) => .fault causePagePerm s

/-- FAR: RED or NFREE (R265). -/
def State.serveFar (s : State) (f : From) (c : Flit) : Answer :=
  let n := if c.opc / 16 % 2 == 1 then 8 else 4
  match c.opc / 32 with
  | 0 =>
    match aopOf (c.opc % 16) with
    | some op => if c.opc % 16 == 0 then .fault causePagePerm s else s.serveRmw f c n (.amo op c.oper0) false
    | none => .fault causePagePerm s
  | 1 =>
    match c.opc % 32, s.requestPlace c true c.addr 1 .wr with
    | 0, (s, .ok (.node k)) =>
      if s.undrained (nodeBase k) 32 then .wait
      else .bare 0 (s.nfreeAt ⟨.nfree, s.agentOf c.rctx 0 512, k, none, 0, none, 0, c.seq, 0, false⟩)
    | _, (s, .error e) => .fault e s
    | _, (s, _) => .fault causePagePerm s
  | _ => .fault causePagePerm s

/-- AMO (R265). -/
def State.serveAmo (s : State) (f : From) (c : Flit) : Answer :=
  match c.opc / 32, aopOf (c.opc % 16) with
  | 0, some op => s.serveRmw f c (if c.opc / 16 % 2 == 1 then 8 else 4) (.amo op c.oper0) true
  | _, _ => .fault causePagePerm s

/-- CAS (R265). -/
def State.serveCas (s : State) (f : From) (c : Flit) : Answer :=
  if c.opc == 0 || c.opc == 16 then s.serveRmw f c (if c.opc == 16 then 8 else 4) (.cas c.oper0 c.oper1) true
  else .fault causePagePerm s

/-- The walk that a request carries on (R265, DEDUCED, log 17); none where its OPC is outside the table. -/
def Flit.walk (c : Flit) : Option FarKind :=
  let k := BitVec.ofNat 16 (fld c.oper1 47 32)
  match c.opc with
  | 0 => some (.nvloss k)
  | 1 => some (.nback k c.oper0 false (bitAt c.oper1 56))
  | 3 => some (.nback k c.oper0 true (bitAt c.oper1 56))
  | _ => none

/-- WALK: it enters the forwarding queue and is applied to its first node here; a walk that finds the queue full stops
(R213, R274, R421). (DEDUCED, log 41; DESIGN CHOICE, log 108) -/
def State.serveWalk (s : State) (c : Flit) : Answer :=
  match c.walk, s.requestPlace c true c.addr 1 .wr with
  | some k, (s, .ok (.node n)) =>
    if s.undrained (nodeBase n) 32 then .wait
    else if s.host.fwdcap.toNat ≤ (s.far.filter fun f => f.tile.isNone && 512 ≤ f.who.tile).length then .bare 0 (s.remBad n)
    else
      let lvl := fld c.oper1 53 48
      let owner := ((s.nodeTag n).map (·.region)).getD 0
      let region := if lvl == 0 then owner else BitVec.ofNat 32 (fld c.oper1 31 0)
      .bare 0 (s.walkAt s.far.length ⟨k, s.agentOf c.rctx region 512, n, none, lvl, none, nodeRef n, c.seq, 0, false⟩)
  | _, (s, .error e) => .fault e s
  | _, (s, _) => .fault causePagePerm s

/-- Whether every access that an agent of this device sent to a frame of device `dev` has been answered (R139). -/
def State.probeQuiet (s : State) (dev : BitVec 12) (ag frame : Nat) : Bool :=
  (s.reqs ag).all fun r =>
    let c := flitOf r.body
    !(r.pdev == dev && c.phys && c.addr / 0x10000 == frame / 0x10000 && r.got.isNone)

/-- Whether the OPC of a kind, with the length of a block, stands in the table of R265. -/
def Flit.opcOk (c : Flit) (kind : Nat) : Bool :=
  if kind == kLoad then c.bytes.isSome
  else if kind == kStore then if c.opc / 32 == 2 then decide (c.opc % 32 ≤ 8) else c.bytes.isSome
  else if kind == kFar then
    match c.opc / 32 with
    | 0 => decide (1 ≤ c.opc % 16 ∧ c.opc % 16 ≤ 9)
    | 1 => c.opc % 32 == 0
    | _ => false
  else if kind == kAmo then c.opc / 32 == 0 && decide (c.opc % 16 ≤ 9)
  else if kind == kCas then c.opc == 0 || c.opc == 16
  else if kind == kWalk then c.walk.isSome
  else c.opc == 0

/-- Serve a request (R264 to R269): an OPC outside the table is PAGE_PERM before anything else. -/
def State.serve (s : State) (f : From) (dev : BitVec 12) (kind : Nat) (c : Flit) : Answer :=
  if !c.opcOk kind then .fault causePagePerm s
  else if kind == kLoad then s.serveLoad c
  else if kind == kStore then s.serveStore f c
  else if kind == kFar then s.serveFar f c
  else if kind == kAmo then s.serveAmo f c
  else if kind == kCas then s.serveCas f c
  else if kind == kWalk then s.serveWalk c
  else if kind == kCopydata then s.serveCopy f c
  else if s.probeQuiet dev (fld c.oper0 9 0) c.addr then .bare 0 s else .wait

/-! ### The events -/

/-- The first flits of a REPLY: status, SEQ in the command flit's place, the agent, the word of a REDIRECT (DEDUCED, log 17). -/
def replyBody (st : Byte) (seq : BitVec 32) (ag : Nat) (w : Word) (data : List Byte) : List Byte :=
  toBytes 8 st.toNat ++ toBytes 8 (seq.toNat * 2 ^ 32) ++ toBytes 8 ag ++ toBytes 8 w.toNat ++ padFlits data

/-- Remember the source of an access to a frame that migrates, with the route back to it (R139). -/
def State.noteSource (s : State) (p : Packet) (c : Flit) : State :=
  if !c.phys || p.kind == kProbe then s
  else
    match s.migOf true c.addr with
    | none => s
    | some (d, _) => s.modMig d fun m =>
        let r := (p.srcdev, p.srcag, reverseHops p.hop p.ptr)
        if m.routes.contains r then m else { m with routes := m.routes ++ [r] }

/-- By what a request of a peer writes: as a peer where its context is privileged, else as no owner (R279). -/
def State.peerBy (s : State) (c : Flit) (dev : BitVec 12) : By := if bitAt (s.ctxWord c.rctx 1) 30 then ⟨3, dev⟩ else ⟨0, 0⟩

/-- Serve the first packet that satisfies a test and answer it (R266). -/
def serveFirst (f : Packet → Bool) (s : State) : Host.Outcome State Fault Refusal :=
  match s.takePacket f with
  | none => .next s
  | some (p, s1) =>
    let c := flitOf p.body
    let s1 := s1.noteSource p c
    match s1.serve ⟨remoteSrc p.srcdev p.srcag, s1.peerBy c p.srcdev⟩ p.srcdev p.kind c with
    | .wait => .next s
    | .reply st w data s2 => .next (s2.respond p kReply (replyBody st c.seq p.srcag.toNat w data))

/-- The operation code of a packet's request. -/
def Packet.opc (p : Packet) : Nat := (flitOf p.body).opc

/-- FABRIC_LOAD. -/
def execFabricLoad (s : State) : Host.Outcome State Fault Refusal := serveFirst (fun p => p.kind == kLoad) s
/-- FABRIC_STORE: a STORE other than that of a node field. -/
def execFabricStore (s : State) : Host.Outcome State Fault Refusal := serveFirst (fun p => p.kind == kStore && p.opc / 32 != 2) s
/-- FABRIC_NST: a STORE of a node field. -/
def execFabricNst (s : State) : Host.Outcome State Fault Refusal := serveFirst (fun p => p.kind == kStore && p.opc / 32 == 2) s
/-- FABRIC_RED: a FAR other than a node release. -/
def execFabricRed (s : State) : Host.Outcome State Fault Refusal := serveFirst (fun p => p.kind == kFar && p.opc / 32 != 1) s
/-- FABRIC_NFREE: a FAR that releases a node. -/
def execFabricNfree (s : State) : Host.Outcome State Fault Refusal := serveFirst (fun p => p.kind == kFar && p.opc / 32 == 1) s
/-- FABRIC_AMO. -/
def execFabricAmo (s : State) : Host.Outcome State Fault Refusal := serveFirst (fun p => p.kind == kAmo) s
/-- FABRIC_CAS. -/
def execFabricCas (s : State) : Host.Outcome State Fault Refusal := serveFirst (fun p => p.kind == kCas) s
/-- FABRIC_WALK; a remote device table in memory of another device is read first (R126, R210). -/
def execFabricWalk (s : State) : Host.Outcome State Fault Refusal :=
  .next (s.attempt fun s => match serveFirst (fun p => p.kind == kWalk) s with | .next s1 => s1 | _ => s)
/-- FABRIC_COPYDATA. -/
def execFabricCopydata (s : State) : Host.Outcome State Fault Refusal := serveFirst (fun p => p.kind == kCopydata) s
/-- FABRIC_PROBE. -/
def execFabricProbe (s : State) : Host.Outcome State Fault Refusal := serveFirst (fun p => p.kind == kProbe) s

end Sys2Proof.Machine
end

