-- ==== Sys2Proof/Machine/FabReply.lean ====
section
/-! DEFINITION. Answers at their source (R123, R201, R266, R267), landing barriers (R115), and migration at the sources and
at the fill (R139). -/

namespace Sys2Proof.Machine
open Sys2Proof

/-! ### Landing barriers (R115) -/

/-- Land: the barrier's count goes down by the bytes of a sector; at zero an empty word becomes full. -/
def State.barLand (s : State) (who : Ident) (bar : Word) (n : Nat) : State :=
  match s.agentPa (s.identAgent who) (fld bar 51 0) true with
  | (s, .error _) => s
  | (s, .ok pa) =>
    let w := s.home64 pa
    let c := fld w 55 0
    let w := if c < n then setFld (setFld w 63 63 1) 55 0 0 else setFld w 55 0 (c - n)
    let s := s.homeWrite64 pa w
    if fld w 55 0 == 0 && !s.isFull pa then s.setFull pa true else s

/-- The landing of a sector of a transfer on its barrier: none once it has failed (R115, R201). -/
def State.xferLand (s : State) (x : Xfer) (bar : Option Word) (n : Nat) : State :=
  match bar with
  | some b => if x.fault.isSome then s else s.barLand x.cmd.who b n
  | none => s

/-- The barrier of the transfer that a request belongs to. -/
def State.barOf (s : State) (ag : Nat) (ch : BitVec 2) (key : Nat) : Option Word :=
  if ag < 512 then
    match vget (s.tileAt ag).xfers ch.toNat with
    | some x => if x.cmd.fut then none else x.cmd.bar
    | none => none
  else (s.dies.toList.flatMap (·.pktCopies)).findSome? fun p => if p.ref.key == key then p.bar else none

/-! ### Answers -/

/-- The bits of a block load placed into a register: (value, unchanged bits). -/
def placeBits (old : BitVec 16384) (data : List Byte) (l : List (Nat × Nat × Nat)) : BitVec 16384 :=
  let x := ofBytes data
  l.foldl (fun r e =>
    let m : BitVec 16384 := BitVec.ofNat 16384 ((2 ^ e.2.2 - 1) * 2 ^ e.1)
    (r &&& ~~~m) ||| BitVec.ofNat 16384 (x / 2 ^ e.2.1 % 2 ^ e.2.2 * 2 ^ e.1)) old

/-- The data of a good answer go where the request says. -/
def State.fulfil (s : State) (ag : Nat) (r : RReq) (data : List Byte) : State :=
  let gone := s.dropReq ag r.id
  match r.fin with
  | .scalar d sx n =>
    let f := fun (l : Load) => { l with dest := .sreg d (extend sx n (ofBytes (data.take n))), ready := s.now, req := none }
    gone.modTile ag fun t => { t with loads := mapIf (fun l => l.seq == r.loadSeq && l.req.isSome) f t.loads }
  | .vector _ pl =>
    gone.modTile ag fun t =>
      let more := t.remote.any fun q => q.loadSeq == r.loadSeq && (match q.fin with | .vector .. => true | _ => false)
      let f := fun (l : Load) =>
        let d := match l.dest with | .vec v x en => Dest.vec v (placeBits x data pl) en | o => o
        { l with dest := d, ready := s.now, req := if more then l.req else none }
      { t with loads := mapIf (fun l => l.seq == r.loadSeq && l.req.isSome) f t.loads }
  | .atomic =>
    match (s.tileAt ag).bnd.bind fun b => b.op.rmw with
    | some (d, _, dbl, m) => gone.finishBnd ag (some (d, m.ret (atomicBytes dbl) (ofBytes (data.take (atomicBytes dbl)))))
    | none => gone
  | .ack | .lost => gone
  | .sector ch n =>
    let s1 := match s.xferOf ag ch r.loadSeq with
      | some x => gone.xferLand x (s.barOf ag ch r.loadSeq) n
      | none => gone
    s1.modXfer ag ch r.loadSeq fun x => { x with unacked := x.unacked - 1 }
  | .pull _ => s.modReqs ag fun l => mapIf (fun q => q.id == r.id) (fun q => { q with got := some data }) l
  | .probe d src => gone.modMig d fun m => { m with probes := m.probes.map fun l => l.filter (· != src) }
  | .word ctx va => { gone with pulled := gone.pulled ++ [⟨ctx, va, 0, BitVec.ofNat 64 (ofBytes (data.take 8)), false⟩] }

/-- An answer STALE: a load or returning atomic is PAGE_ABSENT, anything else is dropped (R139). -/
def State.staleReq (s : State) (ag : Nat) (r : RReq) : State :=
  match r.fin with
  | .scalar .. | .vector .. | .atomic | .pull _ | .word .. => s.failRequest ag r causePageAbsent
  | .sector ch _ => (s.dropReq ag r.id).modXfer ag ch r.loadSeq fun x => { x with unacked := x.unacked - 1 }
  | _ => s.dropReq ag r.id

/-- A request is answered with RETRY: it is sent again after 64 tc (R139). -/
def State.holdReq (s : State) (ag id : Nat) : State :=
  s.modReqs ag fun l => mapIf (fun q => q.id == id) (fun q => { q with again := s.now + 64 }) l

/-- An answer other than REDIRECT (R266). -/
def State.finishReply (s : State) (ag : Nat) (r : RReq) (st : Byte) (data : List Byte) : State :=
  match st.toNat with
  | 0 => s.fulfil ag r data
  | 1 => s.staleReq ag r
  | 2 | 3 => s.holdReq ag r.id
  | _ => s.failRequest ag r (causeOf st)

/-- Send a request again: over its slot, or to a home on this device (R139). -/
def State.resend (s : State) (ag : Nat) (r : RReq) : State :=
  let s := s.modReqs ag fun l => mapIf (fun q => q.id == r.id) (fun _ => { r with again := 0, sent := s.agentCyc ag }) l
  if r.pdev == s.host.devid then
    let by_ : By := if ag < 512 then ((s.tileAt ag).ident ag).by_ else ⟨0, 0⟩
    match s.serve ⟨ag, by_⟩ r.pdev r.kind { flitOf r.body with own := true } with
    | .wait => s.modReqs ag fun l => mapIf (fun q => q.id == r.id) (fun q => { q with again := s.now + 1 }) l
    | .reply st _ data s => s.finishReply ag r st data
  else
    match s.launch (s.packetTo r.kind r.pdev r.slot ag r.body) with
    | (s, some c) => s.failRequest ag r c
    | (s, none) => s

/-- The body of a request to another frame (R264). -/
def rehome (b : List Byte) (addr : Nat) (rctx : BitVec 16) (gen : Byte) : List Byte :=
  let c := flitOf b
  toBytes 8 addr ++ toBytes 8 (c.seq.toNat * 2 ^ 32 + rctx.toNat * 2 ^ 16 + 2 ^ 15 + c.opc * 2 ^ 8 + gen.toNat) ++ b.drop 16

/-- The context in whose device table a redirection is looked up. -/
def State.reqCtx (s : State) (ag : Nat) (r : RReq) : BitVec 16 :=
  if ag < 512 then (s.tileAt ag).ctxid else BitVec.ofNat 16 (r.loadSeq / 2 ^ 64 / 65536)

/-- REDIRECT: every unanswered access of the source to that frame goes to the new home, in sequence order (R139). -/
def State.redirectAll (s : State) (ag : Nat) (r : RReq) (w : Word) : State :=
  let frame := (flitOf r.body).addr / 0x10000
  let nd := fld w 55 44
  let gen := BitVec.ofNat 8 (fld w 63 56)
  let l := (s.reqs ag).filter fun q =>
    let c := flitOf q.body
    q.pdev == r.pdev && c.phys && c.addr / 0x10000 == frame && q.got.isNone
  let aim : Option (BitVec 12 × BitVec 16 × BitVec 10) :=
    if nd == 0xFFF then some (r.pdev, (flitOf r.body).rctx, r.slot)
    else
      match s.device (s.reqCtx ag r) nd with
      | some (.there p c k) => some (p, c, k)
      | some .here => some (s.host.devid, s.reqCtx ag r, 0)
      | none => none
  l.foldl (fun s q =>
    match aim with
    | none => s.failRequest ag q causeRouteBad
    | some (p, c, k) =>
      s.resend ag { q with pdev := p, slot := k, body := rehome q.body (fld w 43 0 + (flitOf q.body).addr % 0x10000) c gen }) s

/-- FABRIC_REPLY: an answer reaches the request of its sequence number; one that comes too late is discarded (R266,
R267). -/
def execFabricReply (s : State) : Host.Outcome State Fault Refusal :=
  match s.takePacket fun p => p.kind == kReply with
  | none => .next s
  | some (p, s) =>
    let w := fun k => BitVec.ofNat 64 (ofBytes ((p.body.drop (8 * k)).take 8))
    let ag := fld (w 2) 9 0
    let st := BitVec.ofNat 8 (fld (w 0) 7 0)
    match s.findReq ag (seqOf p.body) with
    | none => .next s
    | some r => .next (if st == 2 then s.redirectAll ag r (w 3) else s.finishReply ag r st (p.body.drop 32))

/-! ### Migration (R139) -/

/-- The bytes of one frame become those of another. -/
def copyFrame (m : Memory) (old new : Nat) : Memory :=
  let src := m.filter fun c => old ≤ c.1 && c.1 < old + 0x10000
  let rest := m.filter fun c => !(new ≤ c.1 && c.1 < new + 0x10000)
  src.foldl (fun m c => m.put (c.1 - old + new) c.2) rest

/-- The fill copy between two frames of this device: the new frame is FILLING. -/
def State.fillHere (s : State) (d : Nat) (m : Migration) : State :=
  let bad := s.bad.filter fun a => m.old ≤ a && a < m.old + 0x10000
  let keep := s.bad.filter fun a => !(m.new ≤ a && a < m.new + 0x10000)
  let code := bad.filter s.coded.contains
  let keepC := s.coded.filter fun a => !(m.new ≤ a && a < m.new + 0x10000)
  let at_ := fun (l : List Nat) (k : List Nat) => l.foldl (fun l a => insertNat (a - m.old + m.new) l) k
  let s : State := { s with mem := copyFrame s.mem m.old m.new, bad := at_ bad keep, coded := at_ code keepC }
  (s.setFrame m.new 3 none).modMig d fun m => { m with filled := true, newState := 3 }

/-- The fill copy to a frame of another device, as physical copy data. -/
def State.fillAway (s : State) (d : Nat) (m : Migration) : State :=
  let ctx := BitVec.ofNat 16 (fld (s.home64 (s.frameRec m.old + 8)) 63 48)
  match s.device ctx m.ndev.toNat with
  | some (.there p c k) =>
    let s := s.modMig d fun m => { m with filled := true }
    (List.range 293).foldl (fun s i =>
      let n := min 224 (0x10000 - 224 * i)
      let data := (List.range n).map fun j => Memory.byte s.mem (m.old + 224 * i + j)
      let q : Request := ⟨kCopydata, 0, p, c, k, m.new + 224 * i, some m.ngen, 0, BitVec.ofNat 64 n, 0, data⟩
      match s.hostRequest q .ack 0 with
      | (s, some _) => s.lostOp 0
      | (s, none) => s) s
  | _ => s

/-- MIGRATION_FILL_DONE: the fill copy of the first migration that is INCOMING. -/
def execMigrationFillDone (s : State) : Host.Outcome State Fault Refusal :=
  match (List.range 4).findSome? fun d => match (s.die d).mig with
      | some m => if m.newState == 2 then some (d, m) else none
      | none => none with
  | none => .next s
  | some (d, m) =>
    if m.isHere then .next (s.fillHere d m)
    else if !m.filled then .next (s.fillAway d m)
    else if s.host.hostReqs.any fun r => r.kind == kCopydata && (flitOf r.body).addr / 0x10000 == m.new / 0x10000 then .next s
    else .next (s.modMig d fun m => { m with newState := 3 })

/-- Whether a source tile has no unanswered access to a frame. -/
def State.tileQuiet (s : State) (t frame : Nat) : Bool :=
  s.wb.all (fun w => !(w.tile == t && w.touches frame 0x10000))
    && s.far.all fun f => !(f.who.tile == t && f.home / 0x10000 == frame / 0x10000 && (match f.kind with | .red .. => true | _ => false))

/-- A migration whose sources are all quiet ends: the old frame FREE, the new one NORMAL. (DEDUCED, log 40) -/
def State.migQuiet (s : State) (d : Nat) : State :=
  match (s.die d).mig with
  | some m =>
    match m.probes with
    | some l =>
      let l := l.filter fun t => !(t < 512 && s.tileQuiet t m.old)
      let s := s.modMig d fun m => { m with probes := some l }
      if l.isEmpty && m.newState == 3 && m.oldState == 1 then
        let s := s.setFrame m.old 4 none
        let s := if m.isHere then s.setFrame m.new 0 none else s
        s.modMig d fun m => { m with oldState := 4, newState := 0 }
      else s
    | none => s
  | none => s

/-- The requests of all agents that are to be sent again now. -/
def State.dueAgain (s : State) : List (Nat × RReq) :=
  ((s.tiles.flatMap fun t => (s.tileAt t).remote.map fun r => (t, r)) ++ s.host.hostReqs.map fun r => (512, r)).filter
    fun x => x.2.again != 0 && x.2.again ≤ s.now

/-- MIGRATION_RETRY: accesses answered RETRY at least 64 tc ago are sent again, and migrations whose sources are quiet end
(R139). -/
def execMigrationRetry (s : State) : Host.Outcome State Fault Refusal :=
  let s : State := { s with
    wb := s.wb.map fun w => if w.notBefore != 0 && w.notBefore ≤ s.now then { w with notBefore := 0 } else w
    far := s.far.map fun f => if f.notBefore != 0 && f.notBefore ≤ s.now then { f with notBefore := 0 } else f }
  let s := s.dueAgain.foldl (fun s x => s.resend x.1 x.2) s
  .next ((List.range 4).foldl (fun s d => s.migQuiet d) s)

end Sys2Proof.Machine
end

