-- ==== Sys2Proof/Machine/Delivery.lean ====
section
/-! DEFINITION. Fetch and delivery: the engine of a word (R69), the four words of a cycle (R70), loop ends (R76), chunk ends
(R80, R96, R413), fetch stops (R73) and the traps of words that are no instructions (R64, R172, R174). -/

namespace Sys2Proof

/-- Words that end their chunk at themselves (R80). -/
def Instr.endsChunk : Instr → Bool
  | .chunk _ | .lds .. | .stf .. | .ste .. | .amo .. | .cas .. | .freg .. | .fres .. | .repri .. | .cancel .. | .nalloc ..
  | .drain .. | .tidw .. | .fence .. | .tlbi .. | .seal .. | .unseal .. | .route .. | .exit .. | .safept .. => true
  | _ => false

end Sys2Proof

namespace Sys2Proof.Machine
open Sys2Proof

/-- The engine of an opcode (R69). -/
def engineOf (op : Nat) : Eng :=
  if op ≤ 0x49 || 0xC0 ≤ op && op ≤ 0xC3 then .S
  else if 0x50 ≤ op && op ≤ 0x74 || 0x80 ≤ op && op ≤ 0x83 || 0xC4 ≤ op && op ≤ 0xC7 then .A
  else if 0x78 ≤ op && op ≤ 0x7C then .M
  else .V

/-- The engine of a delivered word. -/
def Slot.eng (q : Slot) : Eng := engineOf (opOf q.raw).toNat

/-- Words that stop fetch after themselves until they issue (R73, R333, R366). -/
def stopsFetch : Instr → Bool
  | .br .. | .jmpRel .. | .jmpReg .. | .call .. | .ret .. | .loop .. | .rte _ | .vshapeReg .. | .vshapeImm .. => true
  | .ctlwr _ _ num => match ctlOf num.toNat with | some c => c.captured | none => false
  | _ => false

/-- The registers that a word captures at its delivery (R70, R147, R381). -/
def Regs.caps (r : Regs) : Caps := ⟨r.vshape, r.fpctl, r.taskkey, r.sampth, r.accw, r.psw⟩

/-- The open level that ends at `pc` with the latest start. -/
def Fetch.levelAt (f : Fetch) (pc : Nat) : Option Nat :=
  bestBy (fun a b : Nat => (vget f.loops b).start < (vget f.loops a).start)
    ((List.range 3).filter fun i => (vget f.loops i).active && (vget f.loops i).stop.toNat == pc)

/-- The last word of a body has been delivered at `pc`: innermost level first, the counter falls, and fetch goes back to the
body's start or the level closes (R76). -/
def Fetch.loopEnd : Nat → Nat → Fetch → Fetch
  | 0, _, f => f
  | k + 1, pc, f =>
    match f.levelAt pc with
    | none => f
    | some i =>
      let n := vget f.lc i - 1
      let l := vget f.loops i
      let f := { f with lc := vset f.lc i n }
      if n != 0 then { f with pc := l.start.toNat }
      else Fetch.loopEnd k pc { f with loops := vset f.loops i { l with active := false } }

/-- Fetch after the delivery of a word of `k` words at its place. -/
def Fetch.after (f : Fetch) (k : Nat) : Fetch := Fetch.loopEnd 3 (f.pc + k - 1) { f with pc := f.pc + k }

/-- Words delivered that count in cycle `now`: the second word of a COPYM that was the fourth counts in the next cycle (R70, R172). -/
def Tile.deliveredIn (x : Tile) (now : Nat) : Nat := if x.dcyc == now then x.dcount else if x.dcyc + 1 == now then x.dcount - 4 else 0

/-- Whether the re-execution of a chunk has come to the cycle of its next word (R85). -/
def Tile.onPlan (x : Tile) (now : Nat) : Bool :=
  match x.cur with
  | some c => c.ended || match c.plan[c.count]? with | some p => decide (p ≤ now) | none => true
  | none => true

/-- Whether fetch of a tile stands open in the cycle: a task runs, nothing stops fetch, the cycle has room, and the first word
of a third chunk is not next (R70, R73, R96, R100). -/
def Tile.fetchOpen (x : Tile) (now : Nat) : Bool :=
  x.task.isSome && x.loading.isNone && x.gate == .awake && !x.fstop && x.fresume ≤ now && x.trap.isNone && !x.trunc
    && x.saving.isNone && x.deliveredIn now < 4 && x.onPlan now

/-- The next word would begin a chunk while two are open. -/
def Tile.thirdChunk (x : Tile) : Bool :=
  x.older.isSome && match x.cur with | some c => c.ended | none => false

/-- What fetch finds at its place: an instruction with its word, or the TVAL of an ILLEGAL (R64, R172, R174). -/
def Tile.fetched (x : Tile) : Except Word (Word × Instr) :=
  let pc := x.fetch.pc
  if x.words ≤ pc then .error (BitVec.ofNat 64 pc)
  else
    let w := x.progWord pc
    if 0 < pc && isCopymPair (x.progWord (pc - 1)) w then .error w
    else
      match decode w (if pc + 1 < x.words then some (x.progWord (pc + 1)) else none) with
      | .ok i => .ok (w, i)
      | .error _ => .error w

/-- A word that is no instruction ends the open chunk before itself with ILLEGAL (R80, R174). -/
def Tile.fetchTrap (x : Tile) (tval : Word) : Tile :=
  let pc := x.fetch.pc
  let r : TrapRec := ⟨causeIllegal, pc, tval, pc, false⟩
  let x := { x with fstop := true }
  match x.cur with
  | some c =>
    if c.ended then { x with trap := some r }
    else if c.count == 0 then { x with trap := some r, cur := none }
    else { x with cur := some { c with ended := true, trap := some (.trap r) } }
  | none => { x with trap := some r }

/-- The chunk that the next word joins: the open one, or a fresh one behind it.  The start state of the fresh one stands
where the chunk before it is complete (R80, R83, R84). -/
def Tile.openChunk (x : Tile) : Tile :=
  let fresh := fun (start : Option StartState) (solo : Bool) => some (Chunk.fresh x.fetch x.nseq start (if solo then 5 else 1) solo x.loneNext)
  match x.cur with
  | some c =>
    if !c.ended then x
    else { x with older := some c, cur := fresh (if c.complete then some x.snap else none) false, loneNext := false }
  | none =>
    let start := match x.older with | some o => if o.complete then some x.snap else none | none => some x.snap
    { x with cur := fresh start (x.solo && x.older.isNone), loneNext := false }

/-- Close the open chunk before the next word: at the count at which a fault was found, or before a WAITE (R226, R413). -/
def Tile.closeBefore (x : Tile) (i : Instr) : Option Tile :=
  match x.cur with
  | none => none
  | some c =>
    if c.ended then none
    else if c.stopAt.any fun n => n ≤ c.count then some { x with cur := some { c with ended := true }, loneNext := true }
    else
      match i with
      | .waite .. => if c.count == 0 then none else some { x with cur := some { c with ended := true } }
      | _ => none

/-- Deliver a word to its engine's queue (R70, R73, R76, R80). -/
def Tile.deliver (x : Tile) (now : Nat) (w : Word) (i : Instr) : Tile :=
  let x := x.openChunk
  let k := weightOf i
  let q : QEntry := ⟨⟨x.nseq, x.fetch.pc, w, x.regs.caps, x.fetch⟩, i, now⟩
  let isExit := match i with | .exit .. => true | _ => false
  let x := { x with
    queue := x.queue ++ [q]
    nseq := x.nseq + k
    fetch := x.fetch.after k
    dcyc := now
    dcount := x.deliveredIn now + k
    cur := x.cur.map fun (c : Chunk) => { c with count := c.count + k, deliv := List.replicate k now ++ c.deliv, ended := i.endsChunk || decide (4096 ≤ c.count + k), exits := isExit } }
  let alone := match x.cur with | some c => c.lone && c.first == q.slot.seq | none => false
  { x with fstop := stopsFetch i || isExit || alone }

/-- One step of delivery: a word, a closed chunk or a trap; none where fetch cannot go on in this cycle. -/
def Tile.deliverOne (x : Tile) (now : Nat) : Option Tile :=
  if !x.fetchOpen now then none
  else
    let i := match x.fetched with | .ok (_, i) => i | .error _ => .nop 0
    match x.closeBefore i with
    | some y => some y
    | none =>
      if x.thirdChunk then none
      else
        match x.fetched with
        | .error v => some (x.fetchTrap v)
        | .ok (w, i) =>
          if 16 ≤ (x.queue.filter fun q => q.slot.eng == engineOf (opOf w).toNat).length then none
          else some (x.deliver now w i)

/-- Up to `k` steps of delivery. -/
def Tile.deliverSteps (now : Nat) : Nat → Tile → Tile
  | 0, x => x
  | k + 1, x => match x.deliverOne now with | some y => Tile.deliverSteps now k y | none => x

/-- All that fetch can still deliver in the cycle: at most four words, each with the close of a chunk before it, and a trap (R70). -/
def Tile.deliverUp (x : Tile) (now : Nat) : Tile := x.deliverSteps now 9

/-- Whether the duty of its die gates a tile in this cycle (R294). (DEDUCED, log 84) -/
def State.dutyHeld (s : State) (t : Nat) : Bool :=
  decide ((vget s.host.duty (dieOf t)).toNat < (s.die (dieOf t)).cyc.toNat % 16)

/-- WORD_DELIVERY: the words that fetch can still deliver in this cycle (R70), which is not a gated one (R294). -/
def execWordDelivery (t : TileNo) (s : State) : Host.Outcome State Fault Refusal :=
  .next (if s.dutyHeld t.toNat then s else s.modTile t.toNat fun x => x.deliverUp s.now)

end Sys2Proof.Machine
end

