-- ==== Sys2Proof/Machine/Hazards.lean ====
section
/-! DEFINITION. When a delivered word may issue: delay and ALIGN (R71, R72), the fence between chunks (R83), interlocks (R75),
busy registers (R184), latches (R383), the scoreboard for core loads (R109), and the waits that follow a boundary word
(R114) or a WAITE (R413). -/

namespace Sys2Proof

/-- The registers that a word names: scalars, vectors that it reads, vectors that it writes, latches (R75, R184, R383). -/
structure Uses where
  s : List Nat
  vr : List Nat
  vw : List Nat
  ps : List Nat
deriving DecidableEq, Repr

/-- Scalars only. -/
def Uses.sc (l : List SReg) : Uses := ⟨l.map (·.toNat), [], [], []⟩

/-- Scalars s0 to s31 of format V, vectors read, vectors written. -/
def Uses.ve (s vr vw : List VReg) : Uses := ⟨s.map (·.toNat), vr.map (·.toNat), vw.map (·.toNat), []⟩

/-- The registers of an MMA: a scratchpad operand names a pair of scalars, a register operand its run (R173, R183). -/
def MmaF.uses (f : MmaF) : Uses :=
  let s := fun (m : MSrc) => match m with | .pad r => [r.toNat, r.toNat + 1] | .vreg _ => []
  let v := fun (m : MSrc) => match m with | .vreg r => [r.toNat] | .pad _ => []
  ⟨f.k.toNat :: (s f.a ++ s f.b), v f.a ++ v f.b, [], []⟩

/-- The scalars of a copy; a barrier field of 0 names none. -/
def CopyF.scalars (f : CopyF) : List Nat := [f.d.toNat, f.dst.toNat, f.src.toNat, f.len.toNat, f.bar.toNat]

/-- The registers that a word names. -/
def Instr.uses : Instr → Uses
  | .add _ d a b | .sub _ d a b | .mul _ d a b | .mulh _ d a b _ | .div _ d a b _ | .rem _ d a b _ | .and _ d a b | .or _ d a b
  | .xor _ d a b | .shl _ d a b | .shr _ d a b | .sar _ d a b | .min _ d a b _ | .max _ d a b _ | .sel _ d a b _
  | .bfi _ d a b _ _ | .lea _ d a b _ _ => .sc [d, a, b]
  | .addImm _ d a _ | .andImm _ d a _ | .orImm _ d a _ | .xorImm _ d a _ | .shlImm _ d a _ | .shrImm _ d a _ | .sarImm _ d a _
  | .minImm _ d a _ | .maxImm _ d a _ | .popc _ d a | .clz _ d a | .bfx _ d a _ _ _ => .sc [d, a]
  | .cmp _ _ _ a b => .sc [a, b]
  | .cmpImm _ _ _ a _ => .sc [a]
  | .mov _ k => match k with | .reg d a => .sc [d, a] | .fromPred d _ => .sc [d] | .toPred _ a => .sc [a]
  | .li _ d _ _ | .lih _ d _ => .sc [d]
  | .jmpReg _ a | .call _ a _ | .ret _ a => .sc [a]
  | .loop _ _ c _ => match c with | .reg r => .sc [r] | .imm _ => .sc []
  | .exit _ a n => ⟨(List.range n.toNat).map fun j => a.toNat + j, [], [], []⟩
  | .waite _ a _ => .sc [a]
  | .ld _ d a b _ _ _ | .st _ d a b _ _ | .lds _ d a b _ | .stf _ d a b _ => .sc [d, a, b]
  | .ste _ a b _ | .pref _ a b _ => .sc [a, b]
  | .amo _ d a b _ _ => .sc [d, a, b]
  | .cas _ d a b c _ => .sc [d, a, b, c]
  | .red _ a b _ _ => .sc [a, b]
  | .cancel _ d a => .sc [d, a]
  | .repri _ d a b c => .sc [d, a, b, c]
  | .freg _ d a b => .sc [d, a, b]
  | .fres _ a b _ => .sc [a, b]
  | .nld _ v a _ => ⟨[a.toNat], [], [v.toNat], []⟩
  | .nst _ a b _ | .nvloss _ a b => .sc [a, b]
  | .nback _ a b c _ => .sc [a, b, c]
  | .nalloc _ d => .sc [d]
  | .nfree _ a => .sc [a]
  | .copy _ f => ⟨f.scalars, [], [], []⟩
  | .copym _ f m => let u := m.uses; { u with s := f.scalars ++ u.s }
  | .gath _ f | .scat _ f => ⟨[f.d.toNat, f.dst.toNat, f.src.toNat, f.bar.toNat], [f.idx.toNat], [], []⟩
  | .tidw _ a _ => .sc [a]
  | .mma _ f => f.uses
  | .mdrain _ _ vd ty _ => ⟨[], [], (List.range ty.drainRegs).map fun i => vd.toNat + i, []⟩
  | .mstore _ _ a b _ _ => .sc [a, b]
  | .vld _ f => .ve [f.base] [] [f.vd]
  | .vst _ f => .ve [f.base] [f.vd] []
  | .vlds _ f => .ve [f.base, f.stride] [] [f.vd]
  | .vsts _ f => .ve [f.base, f.stride] [f.vd] []
  | .vbcast _ vd s _ _ => .ve [s] [] [vd]
  | .vmovs _ sd va _ _ => .ve [sd] [va] []
  | .vshapeReg _ s => .ve [s] [] []
  | .vfma _ f => .ve [] [f.va, f.vb, f.vc] [f.vd]
  | .vadd _ f | .vsub _ f | .vmul _ f | .vmin _ f | .vmax _ f | .vdiv _ f | .vand _ f | .vor _ f | .vxor _ f | .vshl _ f
  | .vshr _ f => .ve [] [f.va, f.vb] [f.vd]
  | .vabs _ f | .vneg _ f | .vsqrt _ f | .vrcp _ f | .vrsq _ f | .vexp2 _ f | .vlog2 _ f | .vtanh _ f | .vsigm _ f =>
    .ve [] [f.va] [f.vd]
  | .vcmp _ _ va vb _ _ _ => .ve [] [va, vb] []
  | .vsel _ vd va vb _ _ _ | .vperm _ vd va vb _ _ => .ve [] [va, vb] [vd]
  | .viota _ vd _ _ => .ve [] [] [vd]
  | .vcvt _ vd va _ _ | .vtrans _ vd va _ => .ve [] [va] [vd]
  | .vquant _ vd va vb vc _ _ _ cap =>
    match cap with
    | .c0 => .ve [] [va] [vd, vb]
    | _ => .ve [] [va] [vd, vb, vc]
  | .vred _ n va _ _ _ => ⟨[], [va.toNat], [], [n.toNat]⟩
  | .vpsmov _ vd n _ => ⟨[], [], [vd.toNat], [n.toNat]⟩
  | .vscan _ vd va n _ _ => ⟨[], [va.toNat], [vd.toNat], [n.toNat]⟩
  | .vselk _ vd va sb t s _ _ _ => ⟨[sb.toNat], [va.toNat, vd.toNat], [vd.toNat], [t.toNat, s.toNat]⟩
  | .vmergek _ vd va vb t s _ => ⟨[], [va.toNat, vb.toNat], [vd.toNat], [t.toNat, s.toNat]⟩
  | .vshort _ vd va n _ _ => ⟨[], [va.toNat], [vd.toNat], [n.toNat]⟩
  | .vsamp _ sd va vb sc => .ve [sd, sc] [va, vb] []
  | .vrng _ vd s _ _ => .ve [s] [] [vd]
  | .vmask _ _ op _ => match op with | .first s => .ve [s] [] [] | _ => .sc []
  | .ctlrd _ d _ => .sc [d]
  | .ctlwr _ a _ => .sc [a]
  | .tlbi _ arg => match arg with | .ctx a => .sc [a] | .page a b => .sc [a, b] | .table b => .sc [b]
  | .seal _ d a b | .unseal _ d a b => .sc [d, a, b]
  | .route _ a b => .sc [a, b]
  | _ => .sc []

end Sys2Proof

namespace Sys2Proof.Machine
open Sys2Proof

/-! ### Pending and busy registers (R75, R184) -/

/-- The register that a boundary word returns (R82). -/
def BOp.dest : BOp → Option SReg
  | .lds d _ | .amo d .. | .cas d .. | .freg d .. | .repri d .. | .cancel d _ | .nalloc d | .seal d .. | .unseal d .. => some d
  | _ => none

/-- The boundary words of a tile that have not been performed, oldest first.  Those of a cancelled task's open chunks will
not be performed (R29). -/
def Tile.bnds (x : Tile) : List Bnd :=
  if x.cancelled then x.bnd.toList else x.bnd.toList ++ (x.older.bind (·.bnd)).toList ++ (x.cur.bind (·.bnd)).toList

/-- Matrix operations of the commands of a tile that have not left the matrix engine. -/
def Tile.matrixOps (x : Tile) : List CmdOp := (x.heldCmds ++ x.activeCmds).flatMap fun c => c.op :: c.follow.toList

/-- Scalar registers pending a value. -/
def Tile.pendingS (x : Tile) : List Nat :=
  (x.loads.filterMap fun l => match l.dest with | .sreg r _ => some r.toNat | _ => none)
    ++ x.bnds.filterMap fun b => b.op.dest.map (·.toNat)

/-- Vector registers pending a value: loads, and drains from their issue on. -/
def Tile.pendingV (x : Tile) : List Nat :=
  ((x.loads ++ x.drains.map (·.1)).filterMap fun l => match l.dest with | .vec r _ _ => some r.toNat | _ => none)
    ++ x.matrixOps.flatMap fun o => match o with
        | .mdrain _ vd ty _ => (List.range ty.drainRegs).map fun i => vd.toNat + i
        | _ => []

/-- Vector registers that an MMA has still to read. (DEDUCED, log 72) -/
def Tile.busyV (x : Tile) : List Nat :=
  x.matrixOps.flatMap fun o => match o with
    | .mma _ a b k p _ _ =>
      (match a with | .regs r => (List.range (opdRegs true p.tyA k)).map fun i => r.toNat + i | .pad .. => [])
        ++ (match b with | .regs r => (List.range (opdRegs false p.tyB k)).map fun i => r.toNat + i | .pad .. => [])
    | _ => []

/-- The vector registers of a register operand of an MMA word, which K gives at issue. -/
def State.mmaReads (s : State) (f : MmaF) : List Nat :=
  let k := (s.sr f.k).toNat
  (match f.a with | .vreg r => (List.range (min 32 (opdRegs true f.pair.tyA k))).map fun i => r.toNat + i | .pad _ => [])
    ++ (match f.b with | .vreg r => (List.range (min 32 (opdRegs false f.pair.tyB k))).map fun i => r.toNat + i | .pad _ => [])

/-- Vectors that a word reads, those of matrix operands among them. -/
def State.vectorReads (s : State) (i : Instr) : List Nat :=
  i.uses.vr ++ match i with
    | .mma _ f => s.mmaReads f
    | .copym _ _ f => s.mmaReads f
    | _ => []

/-- Whether an interlock, a busy register or a latch holds a word. -/
def State.regHeld (s : State) (i : Instr) : Bool :=
  let x := s.tile
  let u := i.uses
  let pv := x.pendingV
  u.s.any (fun r => r != 0 && x.pendingS.contains r) || (s.vectorReads i).any (fun r => pv.contains r)
    || u.vw.any (fun r => pv.contains r || x.busyV.contains r)
    || (x.inflight ++ x.votes.map (·.a)).any fun l => match l.dest with | .latch n _ => s.now < l.cyc && u.ps.contains n.toNat | _ => false

/-! ### The scoreboard for core loads (R109) -/

/-- The spans that a core load reads, with the registers as they stand; EXIT reads its blocks as loads (R320). -/
def State.loadSpans (s : State) (i : Instr) : List Range :=
  let rows := fun (f : VMemF) (strided : Bool) => (s.vrows f strided).map fun r =>
    let m := match (planRow true s.shape.ty r s).1 with | .ok p => p.m | .error _ => s.shape.ty.place
    s.rowRange r m
  match i with
  | .ld _ _ a b sz _ disp => [s.span s.tile.ctxid (s.ea a b disp) sz.bytes]
  | .vld _ f => rows f false
  | .vlds _ f => rows f true
  | .exit _ a n => (List.range n.toNat).map fun j => s.span s.tile.ctxid (s.tile.regs.sreg (a.toNat + j)) 64
  | _ => []

/-- Commands whose writes a core load waits for: released ones, and those of the chunk before its own, which will be
released first (R109, R110). -/
def Tile.earlierCmds (x : Tile) (seq : Nat) : List Cmd :=
  x.activeCmds ++ match x.older, x.cur with
    | some o, some c => if c.first ≤ seq then o.held else []
    | some o, none => if o.first ≤ seq then [] else o.held
    | none, _ => []

/-- Whether a word reads or writes a control window of this device. -/
def State.usesWindow (s : State) (i : Instr) : Bool :=
  match i with
  | .ld _ _ a b _ _ disp | .st _ _ a b _ disp => isWindow (s.ea a b disp)
  | _ => false

/-- Whether the scoreboard, or a window store of the older chunk, holds a word whose guard is true (R104, R109). -/
def State.memHeld (s : State) (i : Instr) : Bool :=
  let x := s.tile
  let olderWindow := match x.older with
    | some o => (match x.cur with | some c => c.first ≤ x.iw.seq | none => false) && o.effects.any fun e => match e.2 with | .window .. => true | _ => false
    | none => false
  let cs := x.earlierCmds x.iw.seq
  (s.loadSpans i).any (fun r => cs.any fun c => c.wr.any fun y => y.overlaps r) || olderWindow && s.usesWindow i

/-! ### Issue (R71) -/

/-- Whether the first word on A after a boundary word has to wait (R114, R369).  An ALIGN has effect on A as on the other engines and
waits with it (R72): the outcomes of file 22's pipeline hold in every run only so (DEDUCED, log 33). -/
def Tile.aHeld (x : Tile) (seq : Nat) : Bool :=
  x.bnds.any fun b => decide (b.seq < seq) && match b.op with
    | .lds .. | .stf .. | .ste .. | .drain _ | .tidw .. | .fence _ | .seal .. | .unseal .. => true
    | _ => false

/-- Whether a queued word is an ALIGN. -/
def QEntry.isAlign (q : QEntry) : Bool := match q.word with | .align _ => true | _ => false

/-- The delay and occupancy of a word: the earliest cycle by R71 and R72. -/
def Tile.dueAt (x : Tile) (q : QEntry) : Nat :=
  let d := (q.slot.raw.extractLsb' 53 10).toNat
  max q.at_ ((if q.isAlign then x.occ.latest else x.occ.get q.slot.eng) + d)

/-- Whether words before it in program order, on its own engine or across an ALIGN, have still to issue. -/
def Tile.behind (x : Tile) (q : QEntry) : Bool :=
  x.queue.any fun p => decide (p.slot.seq < q.slot.seq) && (p.slot.eng == q.slot.eng || q.isAlign || p.isAlign)

/-- Whether the chunk of a word may issue: the chunk before it has issued, and its attempt does not wait for a solo
reservation (R83, R97). -/
def Tile.chunkOpen (x : Tile) (seq : Nat) : Bool :=
  match x.chunkOf seq with
  | some c => c.start.isSome && !(c.attempt == 5 && !x.solo)
  | none => true

/-- Whether a queued word may issue now (R71 to R75, R83, R97, R109, R114, R184, R383, R413). -/
def State.canIssue (s : State) (q : QEntry) : Bool :=
  let s := s.onTile fun x => { x with iw := q.slot }
  let x := s.tile
  let g := match q.word.hdr with | some h => guardOf h x.regs | none => true
  x.dueAt q ≤ s.now && !x.behind q && x.chunkOpen q.slot.seq && !(x.waite.isSome && q.slot.eng == .S)
    && !((q.slot.eng == .A || q.isAlign) && x.aHeld q.slot.seq) && !(q.slot.eng == .A && !x.unsent.isEmpty) && !s.regHeld q.word && !(g && s.memHeld q.word)

/-- The first queued word that may issue now on a tile that runs (R242, R294); after a RETRY in this cycle, one behind it (R139). -/
def State.ready (s : State) : Option QEntry :=
  if s.tile.gate != .awake || s.dutyHeld s.tileId then none else
  let l := s.tile.queue.filter fun q => (!s.tile.retry || s.tile.iw.seq < q.slot.seq) && s.canIssue q
  bestBy (fun a b : QEntry => decide (a.slot.seq < b.slot.seq)) l

end Sys2Proof.Machine
end

