-- ==== Sys2Proof/Machine/Sig.lean ====
section
/-! DEFINITION. Signatures and touch filters of chunks (R86 to R90). -/

namespace Sys2Proof.Machine
open Sys2Proof

/-- The rows Q[0][i] to Q[3][i] of the H3 matrices, for key bits 0 to 19 and 20 to 39 (R88). -/
def h3Low : List (Nat × Nat × Nat × Nat) := [
  (0x1A3, 0x0D7, 0x16C, 0x05B), (0x0F1, 0x1B8, 0x03E, 0x12D), (0x14E, 0x062, 0x1D5, 0x0A9), (0x087, 0x13C, 0x0B2, 0x1F4),
  (0x1D9, 0x0A5, 0x147, 0x036), (0x02C, 0x171, 0x0E8, 0x19D), (0x165, 0x04E, 0x1A1, 0x0C2), (0x0B8, 0x1E3, 0x05D, 0x167),
  (0x133, 0x09A, 0x1C6, 0x01F), (0x04D, 0x126, 0x072, 0x1B0), (0x1F6, 0x0C9, 0x12B, 0x084), (0x09E, 0x15D, 0x0F4, 0x13B),
  (0x128, 0x033, 0x189, 0x0E6), (0x071, 0x1AC, 0x017, 0x15A), (0x1C4, 0x07F, 0x1BE, 0x029), (0x015, 0x1D0, 0x063, 0x1C8),
  (0x15B, 0x0E4, 0x138, 0x073), (0x0CA, 0x112, 0x0A6, 0x1E1), (0x1B7, 0x05F, 0x1F2, 0x04C), (0x03A, 0x18B, 0x029, 0x116)]
def h3High : List (Nat × Nat × Nat × Nat) := [
  (0x172, 0x0B6, 0x15F, 0x0D1), (0x0E5, 0x141, 0x0C3, 0x18F), (0x11C, 0x02D, 0x194, 0x07A), (0x066, 0x1F9, 0x04A, 0x1A5),
  (0x1EB, 0x0D4, 0x17D, 0x038), (0x05F, 0x163, 0x0DB, 0x1C7), (0x148, 0x08E, 0x1A7, 0x0B4), (0x0A1, 0x1C7, 0x031, 0x14D),
  (0x1D2, 0x019, 0x162, 0x06E), (0x027, 0x155, 0x0FD, 0x1D9), (0x16F, 0x0A8, 0x11A, 0x095), (0x0BC, 0x1ED, 0x086, 0x12A),
  (0x143, 0x076, 0x1CB, 0x01D), (0x09B, 0x12F, 0x054, 0x1B6), (0x1AE, 0x0C1, 0x13F, 0x0E3), (0x034, 0x19A, 0x0AC, 0x158),
  (0x15D, 0x03B, 0x1E0, 0x07C), (0x0C6, 0x1B4, 0x075, 0x1AB), (0x121, 0x06D, 0x19E, 0x045), (0x07E, 0x1D6, 0x00B, 0x1F1)]

/-- H(0, K) to H(3, K) (R88). -/
def sigBits (k : Nat) : Nat × Nat × Nat × Nat :=
  let step := fun (a : (Nat × Nat × Nat × Nat) × Nat) (q : Nat × Nat × Nat × Nat) =>
    if k / 2 ^ a.2 % 2 == 1 then ((a.1.1 ^^^ q.1, a.1.2.1 ^^^ q.2.1, a.1.2.2.1 ^^^ q.2.2.1, a.1.2.2.2 ^^^ q.2.2.2), a.2 + 1)
    else (a.1, a.2 + 1)
  ((h3Low ++ h3High).foldl step ((0, 0, 0, 0), 0)).1

/-- Hits(A, B) of the signatures of two sets of lines: some bit in common in every part (R89). -/
def sigHits (a b : List Nat) : Bool :=
  let x := a.map sigBits
  let y := b.map sigBits
  x.any (fun p => y.any fun q => p.1 == q.1) && x.any (fun p => y.any fun q => p.2.1 == q.2.1)
    && x.any (fun p => y.any fun q => p.2.2.1 == q.2.2.1) && x.any (fun p => y.any fun q => p.2.2.2 == q.2.2.2)

/-- Hg of a line: the touch-filter bit of its 64 KiB granule (R90). -/
def filterBit (k : Nat) : Nat := (sigBits (k / 1024 * 1024)).1 % 256

/-- Whether the touch filters of two sets of lines meet (R90). -/
def filtersMeet (a b : List Nat) : Bool :=
  let y := b.map filterBit
  a.any fun k => y.contains (filterBit k)

/-- Conflicts(W, Rd, Wr) for the write set of a commit and an open chunk (R89). -/
def Chunk.conflicts (c : Chunk) (w : List Nat) : Bool := sigHits w c.reads || sigHits w c.writes

/-- Whether an open chunk of a tile satisfies `f`. -/
def Tile.anyOpen (x : Tile) (f : Chunk → Bool) : Bool := x.older.any f || x.cur.any f

/-- Whether a tile's open chunks read a line of the slice of tile `t` (R91). -/
def Tile.readsSlice (x : Tile) (t : Nat) : Bool := x.anyOpen fun c => c.reads.any fun k => k / 2 ^ 16 == t

/-- Whether the write set of a commit of tile `t` is delivered to a tile: a local one by the reader mask of the slice, another where the
touch filter of an open chunk meets it (R90, R91). -/
def Tile.receives (x : Tile) (t : Nat) (lcl : Bool) (w : List Nat) : Bool :=
  if lcl then x.readsSlice t else x.anyOpen fun c => filtersMeet w (c.reads ++ c.writes)

end Sys2Proof.Machine
end

