-- ==== Sys2Proof/Machine/Check.lean ====
section
/-! DEFINITION. Checking by copies: the vote on words with V = 1 (R74, R166, R248) and the Understudy (R79, R99, R247). -/

namespace Sys2Proof.Machine
open Sys2Proof

/-! ### Squashes of a chunk -/

/-- Take a tile out of its arbiter's queue (R95). -/
def State.dropRequest (s : State) (t : Nat) : State := s.modDie (dieOf t) fun d => { d with requests := d.requests.filter (· != t) }

/-- Squash the younger chunk of a tile, or both (R95, R96); the request of the older one goes with it. -/
def State.squashTile (s : State) (t : Nat) (both conflict : Bool) : State :=
  let s := if both then s.dropRequest t else s
  s.modTile t fun x => x.squash s.now both conflict none

/-- A squash for CHECK_MISMATCH of the chunk that holds word number `seq`, or for a vote without majority: CHKST stays, and the
third in a row fails the tile, whose task is saved from the chunk's start state (R247, R248). -/
def State.mismatch (s : State) (t seq : Nat) : State :=
  let x := s.tileAt t
  match x.chunkOf seq with
  | none => s
  | some c =>
    let inOlder := match x.cur with | some y => decide (seq < y.first) | none => true
    let n := c.mismatches + 1
    let s := s.squashTile t (inOlder || x.older.isNone) false
    let s := s.modTile t fun x => { x with cur := x.cur.map fun y => { y with mismatches := n } }
    if n < 3 then s
    else (s.failTile t 0x28 0).modTile t fun x => { x with saving := some .mismatch, fstop := true }

/-! ### Votes (R248) -/

/-- VOTE_WRITEBACK: the first vote due is taken (R166, R248). (DEDUCED, log 57) -/
def execVoteWriteback (t : TileNo) (s : State) : Host.Outcome State Fault Refusal :=
  let t := t.toNat
  match takeFirst (fun v : Vote => v.a.cyc ≤ s.now) (s.tileAt t).votes with
  | none => .next s
  | some (v, r) =>
    match v.take with
    | none => .next (s.mismatch t v.a.seq)
    | some l =>
      let s := s.modTile t fun x => { x with votes := r, inflight := x.inflight ++ [l] }
      .next (if v.agree then s else s.modDie (dieOf t) fun d => { d with votefix := satInc d.votefix })

/-! ### The Understudy's match of commands (R79) -/

/-- A matrix command, or the follow-on of a COPYM (R182, R199). -/
def CmdOp.isMatrix (o : CmdOp) : Bool := !o.isCopy

/-- The follow-on of a COPYM as a command of the matrix queue, which waits for the copy (R199): its footprint is that of its MMA. -/
def Cmd.followCmd (c : Cmd) (f : CmdOp) : Cmd :=
  let n := match c.op with | .copy _ _ len _ => if len == 0 then 0 else 1 | _ => 0
  { c with op := f, follow := some c.op, copyDone := none, rd := c.rd.drop n, wr := [] }

/-- UNDERSTUDY_COMMAND_MATCH: the first released command enters its engine, 8 tc after its issue at the earliest (R79).  A
copy that differs is CHECK_MISMATCH: the command is matched again from the agreeing values of its committed chunk, and what the tile has
open is squashed and counted (R247, DEDUCED, log 95). -/
def execUnderstudyCommandMatch (t : TileNo) (s : State) : Host.Outcome State Fault Refusal :=
  let t := t.toNat
  .next (match (s.tileAt t).released with
    | [] => s
    | c :: r =>
      if s.now < c.issued + 8 then s
      else if c.upset then
        let s := s.modTile t fun x => { x with undstat := satInc x.undstat, released := { c with upset := false, issued := s.now } :: r }
        let x := s.tileAt t
        match x.older, x.cur with
        | some o, _ | none, some o => s.mismatch t o.first
        | none, none => s
      else
        s.modTile t fun x =>
          let m := match c.follow with
            | some f => x.mqueue ++ [c.followCmd f]
            | none => if c.op.isMatrix then x.mqueue ++ [c] else x.mqueue
          { x with
            released := r
            mqueue := m
            chans := if c.op.isCopy then vset x.chans c.ch.toNat (vget x.chans c.ch.toNat ++ [c]) else x.chans })

end Sys2Proof.Machine
end

