-- ==== Sys2Proof/Machine/Commit.lean ====
section
/-! DEFINITION. Commit of chunks (R91 to R99), the end of a task (R27, R29, R321), and the solo reservation (R97). -/

namespace Sys2Proof.Machine
open Sys2Proof

/-! ### The end of a task (R321, R417) -/

/-- A far operation of a task that has ended. -/
def FarOp.orphaned (f : FarOp) (t : Nat) : FarOp := if f.tile == some t then { f with tile := none } else f

/-- Commands of a task that has ended. -/
def Cmd.orphaned (c : Cmd) : Cmd := { c with orphan := true }

/-- A request of a task that has ended: a late failure is recorded and raised on nothing (R270). -/
def RReq.orphaned (r : RReq) : RReq :=
  match r.fin with
  | .ack | .scalar .. | .vector .. | .atomic => { r with fin := .lost }
  | _ => r

/-- The tile of a task that ends: results and waits are discarded, released commands run on (R321, R417). -/
def Tile.endTask (x : Tile) (now : Nat) : Tile :=
  { x with
    fstop := true
    queue := []
    inflight := []
    votes := []
    loads := []
    drains := []
    older := none
    cur := none
    bnd := none
    loneNext := false
    deferred := none
    waite := none
    waited := false
    solo := false
    soloWant := false
    released := x.released.map Cmd.orphaned
    mqueue := x.mqueue.map Cmd.orphaned
    chans := x.chans.map fun l => l.map Cmd.orphaned
    xfers := x.xfers.map fun o => o.map fun (f : Xfer) => { f with cmd := f.cmd.orphaned }
    windows := Vector.replicate 2 none
    trap := none
    async := []
    lost := false
    intr := none
    trunc := false
    preq := none
    saving := none
    task := none
    loading := none
    loadEntry := none
    resume := none
    ended := true
    remote := x.remote.map RReq.orphaned
    retry := false
    idleSince := now }

/-- Withdraw what a tile has asked of the arbiters (R97). -/
def State.withdraw (s : State) (t : Nat) : State :=
  { s.dropRequest t with soloTile := if s.soloTile == some t then none else s.soloTile, soloQueue := s.soloQueue.filter (· != t) }

/-- The task of a tile becomes Ended (R321): NRUN and UTILES fall by one, a region that is CANCELLING may close (R38), the
list buffer of a batch is free (R61). -/
def State.taskEnd (s : State) (t : Nat) : State :=
  match (s.tileAt t).task with
  | none => s
  | some k =>
    let g := { s.tileAgent t with who := { (s.tileAgent t).who with ctx := k.ctx } }
    let r := k.blk.region.toNat
    let s := s.withdraw t
    let s := { s with
      far := s.far.map fun (f : FarOp) => f.orphaned t
      dies := s.dies.map fun (d : Die) => { d with ops := d.ops.filter fun o => o.tile != some t } }
    let s := s.modTile t fun x => x.endTask s.now
    let s := (billRun g r (-1) s).2
    let s := (bill g .tiles r (-1) s).2
    let s := (closeIfIdle g r s).2
    s.freeBuffer k.buffer

/-! ### Requests (R93, R99) -/

/-- The oldest open chunk of a tile. -/
def Tile.oldest (x : Tile) : Option Chunk := match x.older with | some c => some c | none => x.cur

/-- Whether every result of a chunk that its commit waits for has come: interlocked values reach the Understudy, votes are
taken, and no fault of its words stands (R79, R226, R248). (DEDUCED, log 55) -/
def Tile.settled (x : Tile) (c : Chunk) : Bool :=
  let last := c.first + c.count
  let within := fun (q : Nat) => decide (c.first ≤ q ∧ q < last)
  x.loads.all (fun l => !within l.seq) && x.votes.all (fun v => !within v.a.seq)
    && match x.deferred with | some d => !within d.seq | none => true

/-- The cycle in which a complete chunk may request its commit: the Understudy runs 8 tc behind, and 2 tc pass (R93,
R99). -/
def Chunk.requestAt (c : Chunk) : Nat := max c.lastAt (c.lastS + 8) + 2

/-- Whether a WAITE of the chunk still waits: an interrupt may yet withdraw it, with the words after it (R414). -/
def Tile.waiteIn (x : Tile) (c : Chunk) : Bool :=
  match x.waite with | some w => decide (c.first ≤ w.1 ∧ w.1 < c.first + c.count) | none => false

/-- Whether the oldest chunk of a tile may request its commit (R82, R99). -/
def Tile.mayRequest (x : Tile) (now : Nat) : Bool :=
  match x.oldest with
  | some c => x.task.isSome && !x.cancelled && c.complete && 0 < c.count && c.requested.isNone && x.bnd.isNone && x.settled c
      && c.requestAt ≤ now && !x.waiteIn c
  | none => false

/-- Change the oldest open chunk. -/
def Tile.modOldest (x : Tile) (f : Chunk → Chunk) : Tile :=
  match x.older with
  | some c => { x with older := some (f c) }
  | none => { x with cur := x.cur.map f }

/-- Whether a chunk is local (R91). -/
def Chunk.isLocal (c : Chunk) : Bool := !c.shared && c.effects.isEmpty

/-- COMMIT_REQUEST: the digests match and the chunk requests its commit; a mismatch squashes it (R92, R99, R247). -/
def execCommitRequest (t : TileNo) (s : State) : Host.Outcome State Fault Refusal :=
  let t := t.toNat
  let x := s.tileAt t
  if !x.mayRequest s.now then .next s
  else
    match x.oldest with
    | none => .next s
    | some c =>
      if c.upset || c.held.any (·.upset) then
        .next ((s.modTile t fun x => { x with undstat := satInc x.undstat }).mismatch t c.first)
      else
        let s := s.modTile t fun x => x.modOldest fun c => { c with requested := some s.now }
        .next (if c.isLocal then s else s.modDie (dieOf t) fun d => { d with requests := d.requests ++ [t] })

/-! ### Performing a commit (R93, R94) -/

/-- Whether the commit of a write set by tile `t` would squash the chunk that holds the solo reservation (R91, R97). -/
def State.hitsSolo (s : State) (t : Nat) (lcl : Bool) (w : List Nat) : Bool :=
  match s.soloTile with
  | some u => u != t && (s.tileAt u).receives t lcl w && (s.tileAt u).anyOpen fun c => c.solo && c.conflicts w
  | none => false

/-- Another tile checks a committing write set that it has received against its open chunks: a hit on the older chunk squashes both, one on
the younger squashes it once the older has committed (R89, R93, R96). -/
def State.checkAt (s : State) (u : Nat) (w : List Nat) : State :=
  let x := s.tileAt u
  if x.older.any fun c => c.conflicts w then s.squashTile u true true
  else if x.cur.any fun c => c.conflicts w then
    if x.older.isSome then s.modTile u fun x => { x with cur := x.cur.map fun c => { c with doomed := true } }
    else s.squashTile u true true
  else s

/-- The other tiles that receive the write set of a commit (R90, R91). -/
def State.receivers (s : State) (t : Nat) (lcl : Bool) (w : List Nat) : List Nat :=
  s.tiles.filter fun u => u != t && (s.tileAt u).receives t lcl w

/-- Deliver the write set of a commit to the other tiles (R90, R91). -/
def State.deliverSig (s : State) (t : Nat) (lcl : Bool) (w : List Nat) : State :=
  (s.receivers t lcl w).foldl (fun s u => s.checkAt u w) s

/-- One successor of a committed EXIT (R27, R321). -/
def State.successor (s : State) (t : Nat) (y : Succ) : State :=
  let g := s.tileAgent t
  if y.blk.join then (arrive g (s.tileAt t).progbase y.blk.region.toNat y.addr false s).2
  else (enqueue g (dieOf t) y.blk none s).2

/-- A held side effect takes effect (R94). (DEDUCED, log 47) -/
def State.release (s : State) (t : Nat) (e : Effect) : State :=
  match e with
  | .command c => s.modTile t fun x => { x with released := x.released ++ [{ c with rel := s.commitNo }] }
  | .far f =>
    let (q, s) := s.takeSrcSeq t
    { s with far := s.far ++ [{ f with seqNo := q }] }
  | .remote q => s.modTile t fun x => { x with unsent := x.unsent ++ [(0, q)] }
  | .ctl num v => s.modTile t fun x => x.ctlCommit num.toNat v
  | .window off v => s.windowWrite ((s.tileAt t).ident t).by_ off v
  | .successors l => l.foldl (fun s y => s.successor t y) s

/-- A boundary word begins once its chunk has committed (R58, R82, R113, R289). -/
def State.beginBnd (s : State) (t : Nat) (b : Bnd) : State :=
  let b := { b with commitNo := some s.commitNo }
  match b.op with
  | .ste pa => s.setFull pa false
  | .cancel _ region =>
    (s.modTile t fun x => { x with bnd := some b }).pushOp (List.range 4) (.cancel b.who region (some t) (dieOf t) 0 none)
  | .repri _ region m key =>
    let g := s.identAgent b.who
    (s.modTile t fun x => { x with bnd := some b }).pushOp (s.partDies g.part (dieOf t)) (.repri b.who region m key t)
  | .seal d region desc | .unseal d region desc =>
    let uns := match b.op with | .unseal .. => true | _ => false
    let z : Glaze := { id := s.host.glazeNext, by_ := .tile t d, ctx := b.who.ctx, region := region, desc := desc, uns := uns, stage := .queued,
                       answers := [], since := 0, c := 0, nb := 0, image := none, ask := none }
    (s.modTile t fun x => { x with bnd := some { b with begun := true, req := some s.host.glazeNext } }).modHost fun h =>
      { h with glaze := h.glaze ++ [z], glazeNext := h.glazeNext + 1 }
  | _ => s.modTile t fun x => { x with bnd := some b }

/-- Drop the open chunk of a tile with all it did: fetch stands at its first word and is stopped (R226). -/
def Tile.dropYounger (x : Tile) (now : Nat) : Tile :=
  let x := x.squash now false false none
  { x with cur := none, fstop := true, queue := [] }

/-- The trap of an enabled exception at the end of a chunk (R152, R227): behind a precise trap, or a save after a third
mismatch, it waits. (DEDUCED, log 56) -/
def Tile.exception (x : Tile) (now : Nat) (e : Nat × FFlags × Bool) : Tile :=
  let (idx, f, oo) := e
  let cause := if oo then causeOutlierOvf else causeArith
  let tval := pack [(idx, 0), (f.toNat % 32, 16), (f.toNat / 32, 21)]
  if x.trap.isSome || x.saving == some .mismatch then { x with async := ⟨cause, tval, false⟩ :: x.async }
  else
    let x := x.dropYounger now
    { x with trap := some ⟨cause, x.fetch.pc, tval, x.fetch.pc, false⟩, trunc := false, saving := none }

/-- Whether an engine fault, TWIN_MISMATCH or INTERRUPT can be taken: it comes before a save (R227, R234, R235). -/
def Tile.asyncDue (x : Tile) : Bool := !x.regs.inh && (!x.async.isEmpty || x.intr.isSome && x.regs.thandler != 0)

/-- What follows the commit of a chunk at its tile (R80, R96, R97, R100, R128, R152, R237, R321). -/
def State.afterCommit (s : State) (t : Nat) (c : Chunk) : State :=
  if c.exits then s.taskEnd t
  else
    let s := match c.bnd with | some b => s.beginBnd t b | none => s
    s.modTile t fun x =>
      let x := match c.trap with
        | some (.trap r) => { x with trap := some r }
        | _ => x
      match c.exception with
      | some e => x.exception s.now e
      | none =>
        match c.trap, if x.asyncDue then none else c.safept with
        | some (.park p), _ => { x with saving := some (.park p false), fstop := true }
        | _, some m => { x.dropYounger s.now with saving := some (.safept m) }
        | _, none => if (match x.cur with | some y => y.doomed | none => false) then x.squash s.now false true none else x

/-- A refused commit: the chunk of the committing tile is squashed instead (R91, R97). -/
def State.refuseCommit (s : State) (t : Nat) : State := s.squashTile t true true

/-- COMMIT_PERFORM: the oldest chunk of a tile commits (R91 to R94, R97). -/
def State.performCommit (s : State) (t : Nat) : State :=
  match (s.tileAt t).oldest with
  | none => s
  | some c =>
    if s.hitsSolo t c.isLocal c.writes then s.refuseCommit t
    else
      let s := s.deliverSig t c.isLocal c.writes
      let s := s.dropRequest t
      let x := s.tileAt t
      let s := if c.solo || c.attempt == 4 || x.solo then (s.withdraw t).modTile t fun x => { x with solo := false, soloWant := false } else s
      let s := s.modTile t fun x => match x.older with | some _ => { x with older := none } | none => { x with cur := none }
      let (l, s) := c.stores.foldl (fun (a : List Store × State) st =>
        let (q, s) := a.2.takeSrcSeq t
        (a.1 ++ [{ st with seqNo := q, commitNo := s.commitNo }], s)) ([], s)
      let s := s.publish (x.ident t).by_ l
      let s := c.effects.foldl (fun s e => s.release t e.2) s
      let s := State.pump t (s.tileAt t).unsent.length s
      let s := s.afterCommit t c
      { s with commitNo := s.commitNo + 1 }

/-- Whether operations of earlier commits on the dies and at the continuations are still on their way: commits keep their
order with them (R58, R93). -/
def State.opsPending (s : State) : Bool := !s.arrivals.isEmpty || s.dies.toList.any fun d => !d.ops.isEmpty

/-- Whether the oldest chunk of a tile has requested, at least `n` tc ago, and its task is not cancelled (R29, R93). -/
def State.requestedFor (s : State) (t n : Nat) : Bool :=
  let x := s.tileAt t
  match x.oldest with
  | some c => !x.cancelled && (match c.requested with | some r => r + n ≤ s.now | none => false)
  | none => false

/-- LOCAL_COMMIT: a local chunk commits without the arbiter (R91, R93). -/
def execLocalCommit (t : TileNo) (s : State) : Host.Outcome State Fault Refusal :=
  let t := t.toNat
  match (s.tileAt t).oldest with
  | some c => .next (if c.isLocal && s.requestedFor t 8 && !s.opsPending then s.attempt fun s => s.performCommit t else s)
  | none => .next s

/-! ### The grant (R92) -/

/-- The requests that wait at the arbiter of a die (R92). -/
def State.pendingAt (s : State) (d : Nat) : List Nat := (s.die d).requests.filter fun t => s.requestedFor t 0

/-- The request that an arbiter serves next: a solo request, else the oldest (R92). -/
def State.nextRequest (s : State) (d : Nat) : Option Nat :=
  let l := s.pendingAt d
  match l.find? fun t => s.soloTile == some t with
  | some t => some t
  | none => l.head?

/-- The cycle in which every receiver of the write set of a tile has acknowledged it, delivered now: 12 tc within the die, 24 to another,
and 40 tc after the request at the earliest (R92, R93). -/
def State.ackAt (s : State) (t : Nat) : Nat :=
  match (s.tileAt t).oldest with
  | some c =>
    let far := (s.receivers t false c.writes).any fun u => dieOf u != dieOf t
    max (s.now + if far then 24 else 12) (c.requested.getD 0 + 40)
  | none => s.now

/-- The arbiter of die `d` takes the next request into service, or passes the grant on (R92). -/
def State.grantNext (s : State) (d : Nat) : State :=
  match s.nextRequest d with
  | some t =>
    if s.served < 16 && s.now < s.grantAt + 32 then { s with serving := some (t, s.ackAt t) }
    else { s with grant := (d + 1) % 4, grantAt := s.now + 6, served := 0 }
  | none => { s with grant := (d + 1) % 4, grantAt := s.now + 6, served := 0 }

/-- GRANT_ARRIVE: the die that holds the grant takes the next request, performs the one in service once every receiver has acknowledged
it, or passes the grant on (R92). (DEDUCED, log 52) -/
def execGrantArrive (d : DieNo) (s : State) : Host.Outcome State Fault Refusal :=
  let d := d.toNat
  if s.grant != d || s.now < s.grantAt then .next s
  else
    match s.serving with
    | none => .next (s.grantNext d)
    | some (t, c) =>
      if !(s.pendingAt d).contains t then .next { s with serving := none }
      else if s.now < c || s.opsPending then .next s
      else .next (s.attempt fun s => { s.performCommit t with serving := none, served := s.served + 1 })

/-! ### Solo reservations (R97) -/

/-- The mark of a reservation held by a task that has returned to Queued (R247): no tile has this number. (DEDUCED, log 68) -/
def queuedSolo : Nat := 512

/-- A reservation of a queued task that is no longer queued is released (R97, R247). -/
def State.dropQueuedSolo (s : State) : State :=
  let held := fun (e : Entry) => match e.saved with | some v => v.solo | none => false
  let any := (s.dies.toList.any fun d => (d.heap ++ d.moves.map (·.2) ++ d.buckets.flatMap (·.2)).any held)
    || s.tiles.any fun t => match (s.tileAt t).resume with | some v => v.solo | none => false
  if s.soloTile == some queuedSolo && !any then { s with soloTile := none } else s

/-- A tile gets the reservation: attempt 5 begins now (R85, R97). -/
def Tile.goSolo (x : Tile) (now : Nat) : Tile :=
  let x := { x with solo := true, soloWant := false }
  match x.cur with
  | some c => if c.attempt == 5 && c.issued == 0 && x.older.isNone then
      let y := x.restart c (now + 1) 5 true (if c.lone then some 0 else c.stopAt)
      { y with cur := y.cur.map fun n => { n with mismatches := c.mismatches } }
    else x
  | none => x

/-- SOLO_GRANT: requests join the package's queue in order, and the first is granted while no reservation is held. -/
def execSoloGrant (s : State) : Host.Outcome State Fault Refusal :=
  let s := s.dropQueuedSolo
  let want := s.tiles.filter fun t => (s.tileAt t).soloWant && !s.soloQueue.contains t && s.soloTile != some t
  let s := { s with soloQueue := s.soloQueue ++ want }
  .next (match s.soloTile, s.soloQueue with
    | none, t :: r => ({ s with soloTile := some t, soloQueue := r } : State).modTile t fun x => x.goSolo s.now
    | _, _ => s)

/-! ### The tile after its task (R29, R49, R321) -/

/-- Whether a cancelled task has come to its end: its open chunks have run to theirs, and a boundary word that has begun is
complete; a program load in progress is completed first (R29, R58, R234). (DEDUCED, log 36) -/
def Tile.cancelEnd (x : Tile) : Bool :=
  let ran := fun (c : Option Chunk) => match c with | some c => c.complete || c.count == 0 | none => true
  x.cancelled && x.loading.isNone && !(match x.bnd with | some b => b.begun | none => false) && (x.waite.isSome || ran x.older && ran x.cur)

/-- A cancelled task ends: nothing of its open chunks takes effect, and SUCCDROP is set where successors are lost (R29). (DEDUCED, log 53) -/
def State.endCancelled (s : State) (t : Nat) : State :=
  let x := s.tileAt t
  match x.task with
  | none => s
  | some k =>
    let held := fun (c : Option Chunk) => match c with
      | some c => c.effects.any fun e => match e.2 with | .successors _ => true | _ => false
      | none => false
    let g := s.tileAgent t
    let s := if held x.older || held x.cur then (setStatus g k.blk.region.toNat 1 s).2 else s
    s.taskEnd t

/-- Whether every command of an ended task has completed and its write buffer has drained (R321). -/
def State.tileQuiet321 (s : State) (t : Nat) : Bool :=
  let x := s.tileAt t
  x.activeCmds.isEmpty && x.unsent.isEmpty && s.wb.all fun w => w.tile != t

/-- TILE_FREE: a cancelled task ends, and the tile of an ended task becomes free for dispatch (R29, R49, R321). -/
def execTileFree (t : TileNo) (s : State) : Host.Outcome State Fault Refusal :=
  let t := t.toNat
  let s := if (s.tileAt t).cancelEnd then s.attempt fun s => s.endCancelled t else s
  .next (if (s.tileAt t).ended && s.tileQuiet321 t then s.modTile t fun x => { x with ended := false } else s)

end Sys2Proof.Machine
end

