-- ==== Sys2Proof/Machine/Drain.lean ====
section
/-! DEFINITION. The drain of committed stores to their homes (R93, R109, R139, R193, R209, R252). -/

namespace Sys2Proof.Machine
open Sys2Proof

/-- Write masked cells into memory itself: words that are written whole are good again (R245). -/
def State.landCells (s : State) (l : List (Nat × Byte × Byte)) : State :=
  let whole := fun (w : Nat) => (List.range 8).all fun i => l.any fun c => c.1 == w + i && c.2.1 == 0xFF
  { s with mem := Memory.writeCells s.mem l, bad := s.bad.filter fun w => !whole w, coded := s.coded.filter fun w => !whole w }

/-- Whether an open window holds writes into a span (R193). -/
def Window.holds (w : Window) (r : Range) : Bool :=
  match w.range with
  | some (lo, hi) => (⟨none, lo, hi⟩ : Range).overlaps r
  | none => false

/-- Whether the own tile holds up a committed store: an earlier command that has still to read or land a byte of it, or an open
replay window that has read it (R109, R193). -/
def State.drainHeld (s : State) (st : Store) : Bool :=
  let x := s.tileAt st.tile
  x.activeCmds.any (fun c => c.rel < st.commitNo && (c.rd ++ c.wr).any fun r => r.overlaps st.range)
    || x.windows.toList.any fun w => match w with
        | some w => w.holds st.range
        | none => false

/-- Whether two stores write a byte in common. -/
def Store.meets (a b : Store) : Bool := a.cells.any fun c => b.cells.any fun d => c.1 == d.1

/-- The place in the write buffers of the first store that may drain: none before it writes a byte of it (R93, R109). -/
def State.drainable (s : State) : Option Nat :=
  (List.range s.wb.length).find? fun i =>
    match s.wb[i]? with
    | some st => st.notBefore == 0 && !s.drainHeld st && (s.wb.take i).all fun e => !e.meets st
    | none => false

/-- The requests by which a store follows a migration to another device (R139, R265). -/
def Store.away (st : Store) (p : BitVec 12) (c : BitVec 16) (k : BitVec 10) (pa off : Nat) (gen : Byte) : List Request :=
  let bytes := (st.cells.map (·.1)).eraseDups.map fun a => (a - off, overCell a 0 st.cells)
  let ga := BitVec.ofNat 64 st.range.lo
  (byteRuns bytes).map fun r => ⟨kStore, ga, p, c, k, pa + r.1, some gen, 4, BitVec.ofNat 64 r.2.length, 0, r.2⟩

/-- A node store at its node (R209): nothing where the node has been released, which is BADWALK. -/
def State.drainNode (s : State) (st : Store) (n : Nat) : State :=
  match s.nodeTag n with
  | some tag =>
    if tag.ctx == st.ctx then s.landCells st.cells
    else s.modDie (n / 2 ^ 20) fun d => { d with badwalk := true, errnode := nodeRef n }
  | none => s.modDie (n / 2 ^ 20) fun d => { d with badwalk := true, errnode := nodeRef n }

/-- The words of memory that cells touch. -/
def wordsTouched (l : List (Nat × Byte × Byte)) : List Nat := l.foldl (fun a c => insertNat (c.1 / 8 * 8) a) []

/-- Committed data that cannot be corrected as it drains: its words are poisoned, and the root queue of its region is torn down
(R252, DESIGN CHOICE, log 98). -/
def State.drainBad (s : State) (st : Store) : State :=
  let g : Agent := { s.agent (dieOf st.tile) st.ctx with who := s.agentOf st.ctx st.region st.tile }
  (unpinned g st.region.toNat (BitVec.ofNat 64 ((st.cells.head?.map (·.1)).getD 0 / 64 * 64))
    ((s.landCells st.cells).poisonWords (wordsTouched st.cells))).2

/-- A store drains to its home (R93, R139). -/
def State.drainAt (s : State) (i : Nat) (st : Store) : State :=
  let gone : State := { s with wb := s.wb.eraseIdx i }
  if st.upset then gone.drainBad st
  else
  match st.node, st.cells with
  | _, [] => gone
  | some n, _ => gone.drainNode st n
  | none, c :: _ =>
    match gone.arriveHome st.tile st.seqNo c.1 st.gen st.redirected with
    | .wait => { s with wb := s.wb.set i { st with notBefore := s.now + 64 } }
    | .stale s2 => s2
    | .apply pa s2 => s2.landCells (st.cells.map fun x => (x.1 + pa - c.1, x.2))
    | .away nd pa g s2 =>
      match s2.device st.ctx nd.toNat with
      | some (.there p k sl) =>
        s2.leave st.tile ((st.away p k sl pa c.1 g).map fun q => (0, q))
      | _ => s2.reportLate (if (s2.tileAt st.tile).task.isSome then some st.tile else none) causeRouteBad (BitVec.ofNat 64 st.range.lo)

/-- STORE_DRAIN: one committed store reaches its home (R93). -/
def execStoreDrain (s : State) : Host.Outcome State Fault Refusal :=
  match s.drainable with
  | none => .next s
  | some i =>
    match s.wb[i]? with
    | some st => .next (s.drainAt i st)
    | none => .next s

end Sys2Proof.Machine
end

