-- ==== Sys2Proof/Machine/Faults.lean ====
section
/-! DEFINITION. The end of a task by a fault (R39), its return to Queued (R45, R55, R237), and the charge of both. -/

namespace Sys2Proof.Machine
open Sys2Proof

/-- The task of a tile as a queued entry with its EK and SEQ (R45): its BOOST held until its dispatch, and its PROMOTE and LIMIT points
count anew (R48). -/
def Tile.entryOf (x : Tile) (sv : Option Saved) : Option Entry :=
  x.task.map fun k =>
    { blk := k.blk, ctx := k.ctx, ek := k.ek, seq := k.seq, enq := k.enq, boosted := false, limited := false, moving := none,
      saved := sv, aged := 0, buffer := k.buffer, mgmt := k.mgmt, upset := false }

/-- The agent of the running task of a tile, in the context of its dispatch. -/
def State.taskAgent (s : State) (t : Nat) : Agent :=
  let g := s.tileAgent t
  match (s.tileAt t).task with
  | some k => { g with who := { g.who with ctx := k.ctx } }
  | none => g

/-- The task of a tile ends by a fault that nothing resolves (R39): under confine FAULTED is set, under queue the hardware queue
is torn down. -/
def State.faultEnd (s : State) (t : Nat) : State :=
  match (s.tileAt t).task with
  | none => s
  | some k =>
    let g := s.taskAgent t
    let r := k.blk.region.toNat
    let (m, s) := fmode g r s
    if m == 0 then ((setStatus g r 2 s).2).taskEnd t
    else
      let (q, s) := rootQueue g r s
      let s := s.taskEnd t
      match q with
      | some q => (teardown g g.who.qbase q s).2
      | none => s

/-- The running task of a tile leaves it and returns to Queued (R45); its list buffer stays with it. -/
def State.backToQueue (s : State) (t : Nat) (sv : Option Saved) : State :=
  match (s.tileAt t).entryOf sv with
  | none => s
  | some e =>
    let s := s.modTile t fun x => { x with task := x.task.map fun (k : Task) => { k with buffer := none } }
    let s := s.taskEnd t
    let s : State := match sv with
      | some v => if v.solo then { s with soloTile := some queuedSolo } else s
      | none => s
    (requeue (s.agent (dieOf t) e.ctx) (dieOf t) e s).2

end Sys2Proof.Machine
end

