-- ==== Sys2Proof/Machine/Repertory.lean ====
section
/-! DEFINITION. The Repertory: dispatch (R22, R49), program loads (R54, R55), refill (R52), ageing (R47), deadlines (R48),
renumbering (R46) and rebalancing (R53). -/

namespace Sys2Proof.Machine
open Sys2Proof

/-! ### The start of a task (R22, R229, R240) -/

/-- The registers of a fresh task (R22). -/
def Task.regs (k : Task) : Regs :=
  let a := fun (i : Nat) => vget k.blk.args i
  let s := (List.range 5).foldl (fun (v : Vector Word 64) i => vset v (i + 1) (a i)) Regs.clear.s
  { Regs.clear with s := vset (vset s 6 (k.blk.region.zeroExtend 64)) 7 (k.ek.zeroExtend 64) }

/-- A fresh task begins at word 0 from plane `pl`, dispatched in cycle `c`, with an implicit ALIGN in the next (R22, R416). (DEDUCED, log 63) -/
def Tile.begin (x : Tile) (k : Task) (pl : Bool) (c : Nat) : Tile :=
  let p := vget x.planes (if pl then 1 else 0)
  let regs := k.regs
  { x with
    regs := regs
    fetch := Fetch.start
    acc := Vector.replicate 2 (Acc.clear true)
    plane := pl
    words := p.count
    planes := vset x.planes (if pl then 1 else 0) { p with lastUsed := c }
    fstop := false
    fresume := c + 1
    occ := ⟨c + 1, c + 1, c + 1, c + 1⟩
    ends := ⟨c + 1, c + 1, c + 1, c + 1⟩
    inflight := []
    lastIssue := c + 1
    snap := ⟨regs, [], ⟨c + 1, c + 1, c + 1, c + 1⟩, ⟨c + 1, c + 1, c + 1, c + 1⟩, c + 1⟩
    nseq := 1
    loading := none
    loadEntry := none }

/-- A saved task goes on from plane `pl` at its saved word, after an implicit ALIGN.  After a full save the occupancies and the
results in flight go on as RTE continues them, from X' = `c` + 1 (R239, R240). (DEDUCED, log 67) -/
def Tile.goOn (x : Tile) (v : Saved) (pl : Bool) (c : Nat) : Tile :=
  let p := vget x.planes (if pl then 1 else 0)
  let fl := v.inflight.map fun (l : Landing) => { l with cyc := l.cyc + c + 1 }
  let o := fun (i : Nat) => if v.full then ((c : Int) + 1 + v.occ.getD i 0).toNat else c + 1
  let occ : Occ := ⟨o 0, o 1, o 2, o 3⟩
  { x with
    regs := v.regs
    fetch := v.fetch
    acc := v.acc
    plane := pl
    words := p.count
    planes := vset x.planes (if pl then 1 else 0) { p with lastUsed := c }
    fstop := false
    fresume := c + 1
    occ := occ
    ends := occ
    inflight := fl
    lastIssue := c + 1
    snap := ⟨v.regs, fl, occ, occ, c + 1⟩
    nseq := (fl.map (·.seq)).foldl max 0 + 1
    solo := v.solo
    async := v.async
    lost := v.lost
    intr := match x.intr with | some k => some k | none => v.intr
    loading := none
    loadEntry := none
    resume := none }

/-- The task of a tile runs from plane `pl`. -/
def State.runTask (s : State) (t : Nat) (pl : Bool) : State :=
  let x := s.tileAt t
  match x.task, x.resume with
  | none, _ => s
  | some k, none => s.setTile t (x.begin k pl s.now)
  | some _, some v =>
    let s := s.setTile t (x.goOn v pl s.now)
    let s := match v.frame with
      | some l => s.homeWrite (sliceBase t + frameOff) l
      | none => s
    if v.solo then { s with soloTile := some t } else s

/-! ### Dispatch (R49) -/

/-- The plane of a tile that holds a program (R14, R55). -/
def Tile.planeOf (x : Tile) (ctx : BitVec 16) (prog : BitVec 32) : Option Bool :=
  if (vget x.planes 0).prog == some (ctx, prog) then some false
  else if (vget x.planes 1).prog == some (ctx, prog) then some true else none

/-- The tile for an entry: its own, or a free one of the partition on the die, one that holds the program first, then the
lowest virtual index.  A rebound coordinate waits for the moves that touch it (R49, R63). -/
def State.pickTile (s : State) (d part : Nat) (e : Entry) : Option Nat :=
  if e.blk.coord == 0xFFFF then
    let l := (s.partTiles part).filter fun t => dieOf t == d && s.tileFree t
    match l.find? fun t => ((s.tileAt t).planeOf e.ctx e.blk.prog).isSome with
    | some t => some t
    | none => l.head?
  else
    match s.coordTile part e.blk.coord with
    | some t => if s.tileFree t && !(s.pinMoves.any fun m => sliceTile m.1 == t || sliceTile m.2.1 == t) then some t else none
    | none => none

/-- The floor of the highest bucket that holds an entry (R50). -/
def Die.floor (x : Die) : Nat := x.topBucket * 2 ^ 24

/-- Whether a SEAL holds the dispatch of a region (R290). -/
def sealHeld (g : Agent) (r : Nat) : M Bool := do
  let l := (← get).host.glaze.filter fun z => z.stage == .holding && z.ctx == g.who.ctx
  l.foldlM (fun b z => do if b then return true else under g z.region.toNat r) false

/-- The first dispatchable entry of a list, with its tile. -/
def pickEntry (d floor : Nat) : List Entry → M (Option (Entry × Nat))
  | [] => return none
  | e :: r => do
    let s ← get
    let part := s.ctxPart e.ctx
    if e.moving.isSome || e.ek.toNat < floor || s.stopped.contains part || (← sealHeld (s.agent d e.ctx) e.blk.region.toNat) then pickEntry d floor r
    else
      match s.pickTile d part e with
      | none => pickEntry d floor r
      | some t =>
        match ← fitsBudget (s.agent d e.ctx) .tiles e.blk.region.toNat 1 with
        | some _ => pickEntry d floor r
        | none => return some (e, t)

/-- Start an entry on a tile: the five privileged registers, PRIV and TASKFLG are loaded, charges move from Queued to Running
(R20, R36, R78, R258). -/
def State.startEntry (s : State) (d : Nat) (e : Entry) (t : Nat) : State :=
  let g := s.agent d e.ctx
  let r := e.blk.region.toNat
  let w := fun k => s.ctxWord e.ctx k
  let k : Task := { ctx := e.ctx, blk := e.blk, ek := e.ek, seq := e.seq, cancelled := false, enq := e.enq, buffer := e.buffer, mgmt := e.mgmt }
  let s := s.modDie d fun x => { x with heap := x.heap.erase e, dispAt := x.cyc.toNat + 1 }
  let s := s.modTile t fun x => { x with
    task := some k
    taskflg := e.blk.flags
    priv := g.who.priv
    ptroot := w 2
    rgnbase := w 3
    qbase := w 4
    progbase := w 5
    ctxid := e.ctx
    resume := e.saved
    loading := some (s.now + 1 + (Config.loadTime s.free).toNat)
    loadEntry := none
    wake := true }
  let s := s.tick
  let s := (bill g .queue r (-1) s).2
  let s := (bill g .tiles r 1 s).2
  let s := (billRun g r 1 s).2
  match (s.tileAt t).planeOf e.ctx e.blk.prog with
  | some pl => s.runTask t pl
  | none => s

/-- A heap entry that cannot be corrected goes, and its region cannot be trusted: every live queue of every context of the partition is torn
down, and ERRREC records UNPINNED (R252, DESIGN CHOICE, log 111). -/
def upsetEntry (d : Nat) (e : Entry) : M Unit := do
  let part := (← get).ctxPart e.ctx
  modify fun s => (s.modDie d fun x => { x with heap := x.heap.erase e }).errRec d 0x52 0 0
  modify fun s => s.freeBuffer e.buffer
  let s ← get
  (s.validCtxs.filter fun c => s.ctxPart c == part).forM fun c => do
    let g := (← get).agent d c
    (← queuesWith g g.who.qbase fun x => x == 1).forM fun q => teardown g g.who.qbase q

/-- DISPATCH: the Better-most dispatchable entry of the die starts (R49). -/
def execDispatch (d : DieNo) (s : State) : Host.Outcome State Fault Refusal :=
  let d := d.toNat
  let x := s.die d
  if x.cyc.toNat < x.dispAt then .next s
  else
    .next (s.attempt fun s =>
      match pickEntry d x.floor (sortBy Entry.better x.heap) s with
      | (some (e, t), s1) => if e.upset then (upsetEntry d e s1).2 else s1.startEntry d e t
      | (none, s1) => s1)

/-! ### Program loads (R54, R55) -/

/-- `n` bytes from an address, by the loader (R55, R423). -/
def loadBytes (g : Agent) (a n : Nat) : M (Except Byte (List Byte)) := do
  match ← ask fun s => s.agentReads g a (n / 8) with
  | .ok l => return .ok (l.flatMap fun w => toBytes 8 w.toNat)
  | .error c => return .error c

/-- Words of bytes. -/
def wordsOf : Nat → List Byte → List Word
  | 0, _ => []
  | n + 1, l => BitVec.ofNat 64 (ofBytes (l.take 8)) :: wordsOf n (l.drop 8)

/-- One bit of CRC-32C, reflected (R54). -/
def crcBit (c : Nat) : Nat := if c % 2 == 1 then c / 2 ^^^ 0x82F63B78 else c / 2
/-- One byte of CRC-32C. -/
def crcByte (c : Nat) (b : Byte) : Nat := (List.range 8).foldl (fun c _ => crcBit c) (c ^^^ b.toNat)
/-- CRC-32C of bytes (R54). -/
def crc32c (l : List Byte) : Nat := l.foldl crcByte 0xFFFFFFFF ^^^ 0xFFFFFFFF

/-- Words as a plane, from word `k` on. -/
def planeWords : Nat → List Word → Assoc Word → Assoc Word
  | _, [], p => p
  | k, w :: r, p => planeWords (k + 1) r (Assoc.set 0 k w p)

/-- The difference records applied to a plane; none where a record is not one or passes word 8,191 (R54). -/
def applyRecords : Nat → List Word → Assoc Word → Option (Assoc Word)
  | 0, l, p => if l.isEmpty then some p else none
  | _ + 1, [], p => some p
  | f + 1, h :: r, p =>
    let off := fld h 15 0
    let n := fld h 31 16
    if n == 0 || fld h 63 32 != 0 || 8192 < off + n || r.length < n then none
    else applyRecords f (r.drop n) (planeWords off (r.take n) p)

/-- The bytes of the first `n` words of a plane. -/
def planeBytes (p : Assoc Word) (n : Nat) : List Byte := (List.range n).flatMap fun i => toBytes 8 (Assoc.get 0 i p).toNat

/-- The plane that a load writes (R55). -/
def Tile.loadTarget (x : Tile) (ctx : BitVec 16) (e : ProgEntry) : Bool :=
  let h := fun (k : Nat) => (vget x.planes k).prog
  let base := if e.baseprog == 0xFFFFFFFF then none else some (ctx, e.baseprog)
  if base.isSome && h 0 == base then true
  else if base.isSome && h 1 == base then false
  else if (h 0).isNone then false
  else if (h 1).isNone then true
  else decide ((vget x.planes 1).lastUsed < (vget x.planes 0).lastUsed)

/-- What a load does: run from a plane with these words, end the task with a fault, or requeue it. -/
inductive LoadEnd
  | run (words : Assoc Word)
  | fault
  | requeue
deriving DecidableEq, Repr

/-- The words of the target plane: from the difference records, or from the image, behind which its words are zero (R55, DESIGN CHOICE, log 112). -/
def loadPlane (g : Agent) (e : ProgEntry) (byDiff : Bool) (other : Assoc Word) : M LoadEnd := do
  if byDiff then
    match ← loadBytes g e.diff.toNat e.difflen with
    | .error _ => return .requeue
    | .ok l =>
      match applyRecords (e.difflen / 8 + 1) (wordsOf (e.difflen / 8) l) other with
      | some p => return if crc32c (planeBytes p e.words) == e.crc then .run p else .requeue
      | none => return .requeue
  else
    match ← loadBytes g e.image.toNat (e.words * 8) with
    | .error _ => return .fault
    | .ok l => return if crc32c l == e.crc then .run (planeWords 0 (wordsOf e.words l) []) else .fault

/-- The load of tile `t` begins: the program-table entry is read again (R55). -/
def State.beginLoad (s : State) (t : Nat) : State :=
  match (s.tileAt t).task with
  | none => s
  | some k =>
    match s.agentReads (s.agent (dieOf t) k.ctx) ((s.ctxWord k.ctx 5).toNat + k.blk.prog.toNat * 32) 4 with
    | (s, .ok w) => s.modTile t fun x => { x with loadEntry := some (w, 0) }
    | (s, .error c) => s.modTile t fun x => { x with loadEntry := some ([], c) }

/-- The target plane of a load by the BASEPROG of an entry, which may be malformed (R55). -/
def Tile.targetOf (x : Tile) (ctx : BitVec 16) (w : List Word) : Bool :=
  x.loadTarget ctx ⟨0, if w.isEmpty then 0xFFFFFFFF else BitVec.ofNat 32 (fld (w.getD 1 0) 63 32), 0, 0, 0, 0⟩

/-- The program load of tile `t` with the entry as it was read, or the cause of its failure; a cancelled task ends before its first
instruction, and its load is kept; after a failed load the target plane is empty (R55, R58, R252). -/
def State.loadProgram (s : State) (t : Nat) (w : List Word) (c : Byte) : State :=
  match (s.tileAt t).task with
  | none => s
  | some k =>
    let g := s.agent (dieOf t) k.ctx
    let x := s.tileAt t
    let i := if x.targetOf k.ctx w then 1 else 0
    let mark := fun (s : State) (p : Plane) => s.modTile t fun x => { x with planes := vset x.planes i p }
    let finish := fun (s : State) => if k.cancelled then s.endCancelled t else s.faultEnd t
    match (if c == 0 then progOf w else none) with
    | none =>
      let s := mark s Plane.empty
      if c == causePoisonData then ((unpinned g k.blk.region.toNat 0 s).2).endCancelled t else finish s
    | some e =>
      let o := vget x.planes (1 - i)
      let byDiff := e.diff != 0 && e.baseprog != 0xFFFFFFFF && o.prog == some (k.ctx, e.baseprog) && !x.badDiff.contains (k.ctx, k.blk.prog)
      match loadPlane g e byDiff o.words s with
      | (.run p, s) =>
        let s := mark s ⟨some (k.ctx, k.blk.prog), p, e.words, s.now⟩
        let s := if byDiff then s else s.modTile t fun x => { x with badDiff := [] }
        if k.cancelled then s.endCancelled t else s.runTask t (i == 1)
      | (.requeue, s) =>
        let s := (mark s Plane.empty).modTile t fun x => { x with badDiff := (k.ctx, k.blk.prog) :: x.badDiff }
        if k.cancelled then s.endCancelled t else s.backToQueue t x.resume
      | (.fault, s) => finish (mark s Plane.empty)

/-- PROGRAM_LOAD: the load of a dispatched task begins on its tile, once awake, with the reading of the program-table entry, and is over once
its time has passed (R55). -/
def execProgramLoad (t : TileNo) (s : State) : Host.Outcome State Fault Refusal :=
  let t := t.toNat
  let x := s.tileAt t
  match x.loading, x.loadEntry with
  | some _, none => .next (if x.task.isSome && x.gate == .awake then s.attempt fun s => s.beginLoad t else s)
  | some c, some (w, k) => .next (if x.task.isSome && c ≤ s.now && x.gate == .awake then s.attempt fun s => s.loadProgram t w k else s)
  | none, _ => .next s

/-! ### Queued entries of a die (R46 to R48, R52) -/

/-- Entries of a die that are queued in their own right and not spilled, those in a move among them: members of a closed slot belong to
their batch (R60). -/
def Die.queuedNow (x : Die) : List Entry :=
  x.heap ++ x.moves.map (·.2) ++ x.chIn ++ x.ch.toList.flatMap fun c => (if c.closed.isSome then [] else c.collecting) ++ c.backlog

/-- Change those that `f` selects. -/
def Die.mapQueued (x : Die) (f : Entry → Bool) (g : Entry → Entry) : Die :=
  { x with heap := mapIf f g x.heap, moves := x.moves.map fun e => if f e.2 then (e.1, g e.2) else e,
           chIn := mapIf f g x.chIn, ch := x.ch.map fun c => c.rekey f g }

/-- Min(EK + n × AGERATE, 0xFFFF_FFFF). -/
def ageKey (ek : BitVec 32) (rate n : Nat) : BitVec 32 := BitVec.ofNat 32 (min (ek.toNat + rate * n) 0xFFFFFFFF)

/-- One entry of a die is aged by `n` steps. (DEDUCED, log 59) -/
def ageOne (d n : Nat) (e : Entry) : M Entry := do
  let rate ← agerate ((← get).agent d e.ctx) e.blk.region.toNat
  return { e with ek := ageKey e.ek rate n }

/-- AGEING_STEP: the step of the last die count whose bits [11:0] were zero, after the dispatch of its cycle (R47, R49). -/
def execAgeingStep (d : DieNo) (s : State) : Host.Outcome State Fault Refusal :=
  let d := d.toNat
  let x := s.die d
  let k := x.cyc.toNat / 4096
  if k ≤ x.ageStep then .next s
  else
    let old := x.queuedNow.filter fun e => e.enq < k * 4096
    .next (s.attempt fun s => old.foldl (fun s e =>
      let (e', s) := ageOne d 1 e s
      s.modDie d fun x => x.mapQueued (fun y => y == e) fun _ => e') (s.modDie d fun x => { x with ageStep := k, dispAt := max x.dispAt (x.cyc.toNat + 1) }))

/-- The deadline class of an entry on a die, by its number (R48). -/
def classOf (d : Nat) (e : Entry) : M (Option (Nat × DlClass)) := do
  let k ← dlclass ((← get).agent d e.ctx) e.blk.region.toNat
  if k == 0 then return none else return some (k - 1, vget ((← get).die d).dl (k - 1))

/-- Die cycles that an entry has been queued on its die. -/
def Entry.waited (e : Entry) (x : Die) : Nat := x.cyc.toNat - e.enq

/-- The promotion of one entry that is due (R48, R236). -/
def promoteOne (d : Nat) (e : Entry) : M Unit := do
  match ← classOf d e with
  | some (_, c) => do
    let x := (← get).die d
    if !e.boosted && c.promote.toNat ≤ e.waited x then
      modify fun s => (s.modDie d fun x => x.mapQueued (fun y => y == e) fun y => y.promoted c).askYield (s.ctxPart e.ctx)
  | none => pure ()

/-- DEADLINE_PROMOTE: every entry whose promotion point has come gets its BOOST (R48). -/
def execDeadlinePromote (d : DieNo) (s : State) : Host.Outcome State Fault Refusal :=
  .next (s.attempt fun s => ((s.die d.toNat).queuedNow.forM (promoteOne d.toNat) s).2)

/-- The LIMIT of one entry: a miss is counted, and DROP revokes the task with SUCCDROP (R48).  The answer says that it has
been revoked; `inHeap` is false for an entry on its way back from a bucket. -/
def limitOne (d : Nat) (inHeap : Bool) (e : Entry) : M Bool := do
  match ← classOf d e with
  | some (i, c) => do
    let s ← get
    if e.limited || c.limit == 0 || e.waited (s.die d) < c.limit.toNat then return false
    else
      let g := s.agent d e.ctx
      let r := e.blk.region.toNat
      modify fun s => s.modDie d fun x => { x with dl := vset x.dl i { c with dlmiss := satInc c.dlmiss } }
      if c.drop then do
        setStatus g r 1
        if inHeap then
          let _ ← revokeOn g d fun y => y == e
          return true
        else do
          bill g .queue r (-1)
          modify fun s => s.freeBuffer e.buffer
          return true
      else do
        modify fun s => s.modDie d fun x => x.mapQueued (fun y => y == e) fun y => { y with limited := true }
        return false
  | none => return false

/-- DEADLINE_LIMIT: every entry whose LIMIT point has come (R48). -/
def execDeadlineLimit (d : DieNo) (s : State) : Host.Outcome State Fault Refusal :=
  .next (s.attempt fun s => ((s.die d.toNat).queuedNow.forM (fun e => do let _ ← limitOne d.toNat true e) s).2)

/-! ### Refill (R52) -/

/-- An entry that returns to the heap: the ageing steps it missed, at the AGERATE of now, its BOOST if due, its LIMIT checked (R52, DESIGN CHOICE, log 113).  A Chorus member comes for its class again (R60).  Where the spill record cannot be corrected, the queue of the entry's
region is torn down (R252, DESIGN CHOICE, log 111). -/
def refillOne (d : Nat) (e : Entry) : M Unit := do
  let x := (← get).die d
  if e.upset then
    let g := (← get).agent d e.ctx
    bill g .queue e.blk.region.toNat (-1)
    modify fun s => s.freeBuffer e.buffer
    unpinned g e.blk.region.toNat 0
    return
  let e ← ageOne d (x.ageStep - e.aged) e
  let e ← do
    match ← classOf d e with
    | some (_, c) =>
      if !e.boosted && c.promote.toNat ≤ e.waited x then do
        modify fun s => s.askYield (s.ctxPart e.ctx)
        pure (e.promoted c)
      else pure e
    | none => pure e
  if !(← limitOne d false e) then
    let missed := match (← classOf d e) with | some (_, c) => c.limit != 0 && decide (c.limit.toNat ≤ e.waited x) | none => false
    let e := { e with limited := e.limited || missed }
    if e.blk.bclass == 0 then heapPut d e else modify fun s => s.modDie d fun x => { x with chIn := x.chIn ++ [e] }

/-- A die at the end of a cycle: where a place of the heap is free and an entry is spilled, the next refill is 8 die cycles away (R52). -/
def Die.armRefill (x : Die) : Die :=
  if x.heapCount < 65536 && x.spilled then { x with refillAt := some (x.refillAt.getD (x.cyc.toNat + 8)) } else { x with refillAt := none }

/-- REFILL: the oldest entry of the highest bucket returns to the heap, one in 8 die cycles (R52). -/
def execRefill (d : DieNo) (s : State) : Host.Outcome State Fault Refusal :=
  let d := d.toNat
  let x := s.die d
  let due := match x.refillAt with | some k => decide (k ≤ x.cyc.toNat) | none => false
  if 65536 ≤ x.heapCount || !due then .next s
  else
    match Assoc.get [] x.topBucket x.buckets with
    | [] => .next s
    | e :: r =>
      .next (s.attempt fun s =>
        let s := s.modDie d fun x => { x with buckets := Assoc.set [] x.topBucket r x.buckets, refillAt := none }
        (refillOne d e s).2)

/-! ### Renumbering (R46) -/

/-- The live entries of a die (R46). -/
def Die.live (x : Die) : List Entry :=
  x.heap ++ x.moves.map (·.2) ++ x.buckets.flatMap (·.2) ++ x.chIn ++ (x.ch.toList.flatMap fun c => c.collecting ++ c.closing ++ c.backlog)
    ++ x.parked.map (·.entry)

/-- The live numbers from the newest to the oldest. -/
def Die.ranks (x : Die) : List (BitVec 32) := sortBy (fun a b => seqBefore b a) (x.live.map (·.seq))

/-- The new number of an entry: that of its rank. -/
def renumOf (l : List (BitVec 32)) (c : BitVec 32) (e : Entry) : Entry :=
  match l.findIdx? fun q => q == e.seq with
  | some k => { e with seq := c - BitVec.ofNat 32 (k + 1) }
  | none => e

/-- A die with its live entries renumbered. (DEDUCED, log 91) -/
def Die.renumber (x : Die) : Die :=
  let f := renumOf x.ranks x.seq
  { x with
    heap := x.heap.map f
    moves := x.moves.map fun e => (e.1, f e.2)
    buckets := x.buckets.map fun b => (b.1, b.2.map f)
    chIn := x.chIn.map f
    ch := x.ch.map fun c => { c with collecting := c.collecting.map f, closing := c.closing.map f, backlog := c.backlog.map f }
    parked := x.parked.map fun p => { p with entry := f p.entry }
    renum := true }

/-- RENUMBER_SWEEP: where the counter runs more than 2^30 ahead of the oldest live number, every live entry takes the number of
its rank; RENUM reads 1 until the sweep is over (R46). -/
def execRenumberSweep (d : DieNo) (s : State) : Host.Outcome State Fault Refusal :=
  let d := d.toNat
  let x := s.die d
  if x.renum then .next (s.modDie d fun x => { x with renum := false })
  else
    match x.ranks.getLast? with
    | some q => .next (if 2 ^ 30 < (x.seq - q).toNat then s.modDie d Die.renumber else s)
    | none => .next s

/-! ### Rebalancing (R53) -/

/-- Whether an entry may move (R53). -/
def movable (d : Nat) (e : Entry) : M Bool := do
  if e.moving.isSome || e.blk.coord != 0xFFFF || e.blk.norebal then return false
  else return (← dlclass ((← get).agent d e.ctx) e.blk.region.toNat) == 0

/-- The Better-most entry of a list. -/
def bestEntry (l : List Entry) : Option Entry := bestBy Entry.better l

/-- The move of one partition's best movable entry from die `a` to die `b`, where it is due; the answer says whether one
moved.  While it moves it is one of `a`'s entries but on no heap (R46, R53, DESIGN CHOICE, log 58). -/
def rebalOne (a b part : Nat) : M Bool := do
  let s ← get
  let mine := fun (d : Nat) => (s.die d).heap.filter fun e => s.ctxPart e.ctx == part
  if !((s.partTiles part).any fun t => dieOf t == b && s.tileFree t) then return false
  else
    let l ← (mine a).filterM (movable a)
    match bestEntry l with
    | none => return false
    | some e =>
      let far := match bestEntry (mine b) with
        | none => true
        | some f => decide (f.ek.toNat + (s.die a).margin.toNat < e.ek.toNat)
      if !far then return false
      else do
        modify fun s => s.modDie a fun x =>
          { x with heap := x.heap.erase e, moves := x.moves ++ [(b, { e with moving := some (x.cyc.toNat + 128) })] }
        return true

/-- The first partition of the list of which an entry moves. -/
def rebalTo (a b : Nat) : List Nat → M Unit
  | [] => pure ()
  | p :: r => do if !(← rebalOne a b p) then rebalTo a b r

/-- REBALANCE_PERIOD: once in 1,024 die cycles, at most one entry to each other die (R53). -/
def execRebalancePeriod (d : DieNo) (s : State) : Host.Outcome State Fault Refusal :=
  let d := d.toNat
  let x := s.die d
  let k := x.cyc.toNat / 1024
  if k ≤ x.rebalStep then .next s
  else
    .next (s.attempt fun s =>
      let s := s.modDie d fun x => { x with rebalStep := k }
      let parts := x.heap.foldl (fun l e => insertNat (s.ctxPart e.ctx) l) []
      if x.rebalEn then (((List.range 4).filter (· != d)).forM (fun b => rebalTo d b parts) s).2 else s)

/-- Whether the move of an entry is over in die cycle `c` of the die that it leaves. -/
def Entry.arrived (e : Entry) (c : Nat) : Bool := match e.moving with | some m => decide (m ≤ c) | none => false

/-- The first move to die `d` that is over: the die that it leaves, and the entry. -/
def State.moveOver (s : State) (d : Nat) : Option (Nat × Entry) :=
  (List.range 4).findSome? fun a =>
    ((s.die a).moves.find? fun e => e.1 == d && e.2.arrived (s.die a).cyc.toNat).map fun e => (a, e.2)

/-- REBALANCE_MOVE_DONE: an entry that has moved takes its number on this die (R48, R53). -/
def execRebalanceMoveDone (d : DieNo) (s : State) : Host.Outcome State Fault Refusal :=
  let d := d.toNat
  match s.moveOver d with
  | none => .next s
  | some (a, e) =>
    .next (s.attempt fun s =>
      let s := s.modDie a fun x => { x with moves := x.moves.erase (d, e) }
      let (q, s) := takeSeq d s
      (heapArrive (s.agent d e.ctx) d { e with seq := q, moving := none, enq := (s.die d).cyc.toNat, limited := false } s).2)

end Sys2Proof.Machine
end

