-- ==== Sys2Proof/Machine/Chorus.lean ====
section
/-! DEFINITION. The Chorus: arrivals, closes and batch tasks (R44, R59 to R61, R418). -/

namespace Sys2Proof.Machine
open Sys2Proof

/-- CHORUS_ARRIVAL: the first block that has come for a class enters its collecting slot or joins its backlog, behind every older
entry (R50, R59, R60). (DEDUCED, log 62) -/
def execChorusArrival (d : DieNo) (s : State) : Host.Outcome State Fault Refusal :=
  let d := d.toNat
  match (s.die d).chIn with
  | [] => .next s
  | e :: r =>
    .next (s.attempt fun s => (chorusArrive (s.agent d e.ctx) d e (s.modDie d fun x => { x with chIn := r })).2)

/-- CHORUS_WINDOW_CLOSE: collecting slots whose close point has come are closed (R60). -/
def execChorusWindowClose (d : DieNo) (s : State) : Host.Outcome State Fault Refusal := .next (s.modDie d.toNat Die.settle)

/-- The list buffer that a class writes next: buffer 0 first (R61, R418). -/
def ChClass.freeBuffer? (c : ChClass) : Option Bool := if !c.busy0 then some false else if !c.busy1 then some true else none

/-- The six words of a member in the list (R61). -/
def Entry.listed (e : Entry) : List Word :=
  (List.range 5).map (fun i => vget e.blk.args i) ++ [BitVec.ofNat 64 (e.ek.toNat * 2 ^ 32 + e.blk.region.toNat)]

/-- The launch block of a batch task (R61). (DEDUCED, log 61) -/
def ChClass.batch (c : ChClass) (buf : Word) (n key : Nat) : Block where
  flags := 0
  prog := c.prog
  key := BitVec.ofNat 32 key
  region := c.region
  pkt := 0
  status := 0
  res := 0
  bclass := 0
  joincnt := 0
  coord := c.coord
  args := Vector.ofFn fun i => [buf, BitVec.ofNat 64 n, c.userarg, BitVec.ofNat 64 c.closeCycle, 0].getD i.val 0

/-- The list of a batch is written at an address; false where a word of it is refused. -/
def writeList (g : Agent) (a : Nat) (mem : List Entry) : M Bool :=
  allOk (fun (k, w) => ask fun s => s.agentWrite g (a + k * 8) w) ((mem.flatMap Entry.listed).mapIdx fun k w => (k, w))

/-- The closing slot of class `i` of die `d` writes its list into buffer `hi` and enqueues the batch task, or is discarded
(R60, R61, R36); a list buffer that cannot be written is an error that cannot be pinned (R252). -/
def batchOut (d i : Nat) (hi : Bool) : M Unit := do
  let s ← get
  let c := vget (s.die d).ch i
  let mem := c.closing
  let g := s.agent d ((mem.head?.map (·.ctx)).getD 0)
  let buf := c.listbase + if hi then 0xC00 else 0
  mem.forM fun e => do
    let ge := s.agent d e.ctx
    bill ge .queue e.blk.region.toNat (-1)
  modify fun s => s.modDie d fun x => { x with ch := vset x.ch i { vget x.ch i with closing := [] } }
  let r := c.region.toNat
  let place := c.coord == 0xFFFF || (s.coordTile g.part c.coord).isSome
  if (← rcbState g r) != some 1 || !place then setStatus g r 1
  else if !(← writeList g (fld buf 51 0) mem) then do
    setStatus g r 1
    unpinned g r buf
  else do
    let key := (mem.map fun e => e.ek.toNat).foldl max 0
    let b := c.batch buf mem.length key
    modify fun s => s.modDie d fun x =>
      { x with ch := vset x.ch i (let k := vget x.ch i; if hi then { k with busy1 := true } else { k with busy0 := true }) }
    let h := (← get).holdDie g.part c.coord d
    bill g .queue r 1
    let e ← newEntry g h b (BitVec.ofNat 32 key)
    heapArrive g h { e with buffer := some (d, i, hi) }
  modify fun s => s.modDie d Die.settle

/-- CHORUS_LIST_WRITE: the first class of the die with a closed batch and a free list buffer (R60, R61). (DEDUCED, log 60) -/
def execChorusListWrite (d : DieNo) (s : State) : Host.Outcome State Fault Refusal :=
  let d := d.toNat
  match (List.range 16).findSome? fun i =>
    let c := vget (s.die d).ch i
    if c.closing.isEmpty then none else c.freeBuffer?.map fun b => (i, b) with
  | some (i, b) => .next (s.attempt fun s => (batchOut d i b s).2)
  | none => .next s

end Sys2Proof.Machine
end

