-- ==== Sys2Proof/Machine/Queues.lean ====
section
/-! DEFINITION. The queue readers: ring slots in turn (R40, R43), LAUNCH, COPY and CKPT packets (R26, R42, R203, R204, R287),
and the completion of packets (R40, R41). -/

namespace Sys2Proof.Machine
open Sys2Proof

/-! ### Descriptors (R40) -/

/-- The address of the slot of packet `i`. -/
def QDesc.slot (x : QDesc) (i : Nat) : Nat := x.base.toNat + i % x.size * 64

/-- The agent of the queue readers of a context: they act on the die that carries virtual tile (0, 0) (R44, R204). (DEDUCED, log 92) -/
def State.queueAgent (s : State) (ctx : BitVec 16) : Agent :=
  let p := s.ctxPart ctx
  ⟨s.headDie p, s.agentOf ctx 0 512, p, []⟩

/-- The descriptor of a queue: inside, none where it does not pass (R40). -/
def readDesc (g : Agent) (qbase : Word) (q : Nat) : M (Except Byte (Option QDesc)) := do
  match ← ask fun s => s.agentReads g (qdAddr qbase q 0) 8 with
  | .ok w => return .ok (descOf w)
  | .error c => return .error c

/-- A descriptor that passes. -/
def goodDesc (g : Agent) (qbase : Word) (q : Nat) : M (Option QDesc) := do
  match ← readDesc g qbase q with
  | .ok x => return x
  | .error _ => return none

/-- An access to a descriptor whose failure is an error that cannot be pinned: the queue is torn down (R252, R423). -/
def orTorn (g : Agent) (qbase : Word) (q : Nat) (x : M Bool) : M Unit := do
  if !(← x) then
    modify fun s => s.errRec g.die 0x52 0 (BitVec.ofNat 64 (qdAddr qbase q 0))
    teardown g qbase q

/-- Write a word of a descriptor. -/
def putDesc (g : Agent) (qbase : Word) (q k : Nat) (v : Word) : M Unit := orTorn g qbase q (ask fun s => s.agentWrite g (qdAddr qbase q k) v)

/-- Change a word of a descriptor. -/
def modDesc (g : Agent) (qbase : Word) (q k : Nat) (f : Word → Word) : M Unit := orTorn g qbase q do
  match ← ask fun s => s.agentRead g (qdAddr qbase q k) with
  | .ok w => ask fun s => s.agentWrite g (qdAddr qbase q k) (f w)
  | .error _ => return false

/-! ### Completion (R40, R41) -/

/-- The packets of a queue that have been taken and have not completed. -/
def State.running (s : State) (ctx q : BitVec 16) : List Nat :=
  ((s.dies.toList.flatMap (·.pktCopies)).filterMap fun p => if p.ref.ctx == ctx && p.ref.q == q then some p.ref.idx else none)
    ++ s.host.glaze.filterMap fun z => match z.by_ with
      | .packet r => if r.ctx == ctx && r.q == q then some r.idx else none
      | .tile .. => none

/-- Packet `i` completes with a status: STATUS is written and PKT cleared where the slot can be written, failures are counted, and
DONEIDX advances to the first packet that has not completed (R40). -/
def completePacket (g : Agent) (qbase : Word) (q i : Nat) (st : Byte) : M Unit := do
  match ← readDesc g qbase q with
  | .error _ => orTorn g qbase q (return false)
  | .ok none => pure ()
  | .ok (some x) => do
    let st := if x.state == 2 then 0x04 else st
    match ← ask fun s => s.agentRead g (x.slot i + 16) with
    | .ok w => let _ ← ask fun s => s.agentWrite g (x.slot i + 16) (setFld (setFld w 55 48 st.toNat) 63 56 0)
    | .error _ => pure ()
    if st != 0 then do
      modDesc g qbase q 6 fun n => n + 1
      modDesc g qbase q 5 fun e => if fld e 15 0 == 0 then BitVec.ofNat 64 (i % 2 ^ 48 * 2 ^ 16 + st.toNat) else e
    let left := ((← get).running g.who.ctx (BitVec.ofNat 16 q)).filter (· != i)
    putDesc g qbase q 4 (BitVec.ofNat 64 (left.foldl min x.rd))

/-- The reader has taken packet `i`: RDIDX advances. -/
def takePacket (g : Agent) (qbase : Word) (q i : Nat) : M Unit := do
  putDesc g qbase q 3 (BitVec.ofNat 64 (i + 1))

/-! ### The next packet (R43) -/

/-- What the reader finds in a slot: the packet, a read of it that fails, or a descriptor that cannot be read. -/
inductive Found
  | packet (w : List Word)
  | lost (cause : Byte)
  | noDesc
deriving DecidableEq, Repr

/-- What a queue has for the reader: its packet index and what stands there; none where it is passed over.  A queue whose descriptor cannot
be read is torn down where its QSTATE is 1 (R252).  A queue that has been torn down has a packet in a slot that cannot be read where a
producer has claimed its index (R40, R41, DEDUCED, log 121). -/
def lookQueue (g : Agent) (qbase : Word) (q : Nat) : M (Option (QDesc × Found)) := do
  match ← readDesc g qbase q with
  | .error _ => return if (← queuesWith g qbase fun x => x == 1).contains q then some (⟨0, 1, 16, 0, 0, 0⟩, .noDesc) else none
  | .ok none => return none
  | .ok (some x) =>
    if x.state != 1 && x.state != 2 || x.done + x.size ≤ x.rd then return none
    else
      match ← ask fun s => s.agentReads g (x.slot x.rd) 8 with
      | .error c => return if x.state == 2 && x.wr ≤ x.rd then none else some (x, .lost c)
      | .ok w =>
        let kind := fld (w.getD 2 0) 63 56
        let full := kind == 2 && x.state == 1 && 16 ≤ ((← get).running g.who.ctx (BitVec.ofNat 16 q)).length
        return if kind == 0 || full then none else some (x, .packet w)

/-- The first queue of a list with something to read. -/
def firstQueue (g : Agent) (qbase : Word) : List Nat → M (Option (Nat × QDesc × Found))
  | [] => return none
  | q :: r => do
    match ← lookQueue g qbase q with
    | some (x, f) => return some (q, x, f)
    | none => firstQueue g qbase r

/-- A packet for the reader: context, queue, descriptor, what it found, and whether its packets complete as TORN: the queue has been torn
down, or its partition stopped (R18, R41). -/
structure Turn where
  ctx : BitVec 16
  q : Nat
  desc : QDesc
  found : Found
  dead : Bool
deriving DecidableEq, Repr

/-- The list from the first element that is at least `k` on, then the rest. -/
def rotateFrom (k : Nat) (l : List Nat) : List Nat := (l.filter fun x => k ≤ x) ++ l.filter fun x => x < k

/-- The first context of a list with a packet. -/
def firstCtx : List (BitVec 16) → M (Option Turn)
  | [] => return none
  | c :: r => do
    let s ← get
    let g := s.queueAgent c
    let qb := s.ctxWord c 4
    let l ← queuesIn g qb
    match ← firstQueue g qb (rotateFrom (Assoc.get 0 c.toNat s.rrQueue) l) with
    | some (q, x, f) => return some ⟨c, q, x, f, x.state == 2 || s.stopped.contains g.part⟩
    | none => firstCtx r

/-- The packet whose turn it is: contexts in ascending order from the last one served, one packet each, and in a context its
queues in the same way (R43). -/
def nextTurn : M (Option Turn) := fun s =>
  let l := rotateFrom s.rrCtx (s.validCtxs.map (·.toNat))
  firstCtx (l.map fun c => BitVec.ofNat 16 c) s

/-- The turn has been taken. -/
def State.turned (s : State) (t : Turn) : State :=
  { s with rrCtx := t.ctx.toNat + 1, rrQueue := Assoc.set 0 t.ctx.toNat (t.q + 1) s.rrQueue }

/-- The kind of the packet in turn: 0 where the slot cannot be read or the packets of the queue complete as TORN. -/
def Turn.kind (t : Turn) : Nat :=
  match t.found with
  | .packet w => if t.dead then 0 else fld (w.getD 2 0) 63 56
  | .lost _ | .noDesc => 0

/-! ### LAUNCH (R26, R40 to R42) -/

/-- A slot of a live queue that cannot be read: the queue is torn down with its index and the cause (R40, R252). (DEDUCED, log 81) -/
def slotLost (g : Agent) (qbase : Word) (q i : Nat) (cause : Byte) : M Unit := do
  teardown g qbase q
  if cause == causePoisonData then
    modify fun s => s.errRec g.die 0x52 0 (BitVec.ofNat 64 (qdAddr qbase q 0))
  putDesc g qbase q 5 (BitVec.ofNat 64 (i % 2 ^ 48 * 2 ^ 16 + (statusOf cause).toNat))

/-- Whether a barrier or future of a packet is misaligned or misplaced (R204). -/
def State.pktPlaceBad (s : State) (ctx : BitVec 16) (ga : Word) (fut : Bool) : Bool :=
  ga != 0 && (ga.toNat % (if fut then 16 else 8) != 0 ||
    match s.device ctx (fld ga 63 52) with
    | some .here =>
      match spaceOf (fld ga 51 0) with
      | .flat sl off => (s.virt (s.ctxPart ctx) sl).isNone || sliceBytes < off + (if fut then 16 else 8)
      | .paged => !fut
      | _ => true
    | _ => true)

/-- The conversion of a COPY packet. -/
def convOf : Nat → Option CPath
  | 0 => some .plain | 1 => some .f32 | 2 => some .bf16 | _ => none

/-- A COPY packet as it runs: its transfer, with a fault from the beginning where it is refused (R203, R204). -/
def State.pktRun (s : State) (g : Agent) (t : Turn) (w : List Word) (p : CPath) (fut : Bool) (st : Byte) : PktCopy :=
  let x := fun k => w.getD k 0
  let c : Cmd :=
    { who := g.who, op := .copy (x 1) (x 0) (x 3).toNat p, follow := none, ch := 0, tid := 0, bar := none, fut := false, seq := 0, idx := 0,
      fpctl := Config.packetFpctl, window := 0, rd := [], wr := [], issued := s.now, rel := s.commitNo, upset := false, orphan := true, copyDone := none }
  { ref := ⟨t.ctx, BitVec.ofNat 16 t.q, t.desc.rd⟩
    xfer := { cmd := c, pos := 0, flags := 0, fault := if st == 0 then none else some (st, 0), waitFor := s.now + 1, unacked := 0, late := false, kept := [] }
    bar := if st != 0 || x 4 == 0 then none else some (x 4)
    fut := if fut then some (x 5) else none }

/-- A COPY packet that does not run, refused with a status: a future that is well placed fails with it before the packet completes (R33,
R204). -/
def refuseCopy (g : Agent) (qbase : Word) (t : Turn) (w : List Word) (st : Byte) : M Unit := do
  let s ← get
  takePacket g qbase t.q t.desc.rd
  if w.getD 5 0 != 0 && !s.pktPlaceBad t.ctx (w.getD 5 0) true then
    modify fun s => s.modDie g.die fun d => { d with pktCopies := d.pktCopies ++ [s.pktRun g t w .plain true st] }
  else completePacket g qbase t.q t.desc.rd st

/-- A LAUNCH packet, a packet of an unknown kind, a slot that cannot be read, or a packet of a queue torn down. -/
def launchTurn (t : Turn) : M Unit := do
  let s ← get
  let g := s.queueAgent t.ctx
  let qb := s.ctxWord t.ctx 4
  let i := t.desc.rd
  let finish := fun (st : Byte) => do
    takePacket g qb t.q i
    completePacket g qb t.q i st
  match t.found with
  | .noDesc => orTorn g qb t.q (return false)
  | .lost c => if t.dead then finish 0x04 else slotLost g qb t.q i c
  | .packet w =>
    if t.dead then (if fld (w.getD 2 0) 63 56 == 2 then refuseCopy g qb t w 0x04 else finish 0x04)
    else if t.kind != 1 then finish 0x01
    else do
      let b := blockOf w
      match ← checkBlock g (s.ctxWord t.ctx 5) g.die (.packet t.q) (s.reserved t.ctx) b with
      | some (st, _) => finish st
      | none => do
        enqueue g g.die b none
        finish 0

/-- LAUNCH_PACKET: the packet in turn, where it is no COPY and no CKPT packet of a live queue (R26, R40, R43). -/
def execLaunchPacket (s : State) : Host.Outcome State Fault Refusal :=
  .next (s.attempt fun s =>
    match nextTurn s with
    | (some t, s1) => if t.kind == 2 || t.kind == 3 then s1 else ((launchTurn t s1).2).turned t
    | (none, s1) => s1)

/-! ### COPY packets (R203, R204) -/

/-- Accept a COPY packet: it runs on the queue copy engine of the head die, or is refused with BAD_PACKET (R204). (DEDUCED, log 79) -/
def copyTurn (t : Turn) (w : List Word) : M Unit := do
  let s ← get
  let g := s.queueAgent t.ctx
  let qb := s.ctxWord t.ctx 4
  let x := fun k => w.getD k 0
  let bad := fld (x 2) 47 34 != 0 || fld (x 2) 31 0 != 0 || x 7 != 0 || fld (x 3) 63 40 != 0
    || s.pktPlaceBad t.ctx (x 4) false || s.pktPlaceBad t.ctx (x 5) true
  match convOf (fld (x 2) 33 32), bad with
  | some p, false =>
    takePacket g qb t.q t.desc.rd
    modify fun s => s.modDie g.die fun d => { d with pktCopies := d.pktCopies ++ [s.pktRun g t w p (x 5 != 0) 0] }
  | _, _ => refuseCopy g qb t w 0x01

/-- COPY_PACKET: the packet in turn, where it is a COPY packet of a live queue (R204). -/
def execCopyPacket (s : State) : Host.Outcome State Fault Refusal :=
  .next (s.attempt fun s =>
    match nextTurn s with
    | (some t, s1) =>
      match t.kind, t.found with
      | 2, .packet w => ((copyTurn t w s1).2).turned t
      | _, _ => s1
    | (none, s1) => s1)

/-! ### CKPT packets (R287) -/

/-- Accept a CKPT packet: it becomes a request of the Glaze engine, or is refused with BAD_PACKET. -/
def ckptTurn (t : Turn) (w : List Word) : M Unit := do
  let s ← get
  let g := s.queueAgent t.ctx
  let qb := s.ctxWord t.ctx 4
  let i := t.desc.rd
  let x := fun k => w.getD k 0
  let bad := fld (x 1) 31 1 != 0 || fld (x 2) 47 40 != 0 || x 3 != 0 || x 4 != 0 || x 5 != 0 || x 6 != 0 || x 7 != 0
  takePacket g qb t.q i
  if bad then completePacket g qb t.q i 0x01
  else
    let z : Glaze :=
      { id := s.host.glazeNext, by_ := .packet ⟨t.ctx, BitVec.ofNat 16 t.q, i⟩, ctx := t.ctx, region := BitVec.ofNat 32 (fld (x 1) 63 32),
        desc := x 0, uns := bitAt (x 1) 0, stage := .queued, answers := [], since := 0, c := 0, nb := 0, image := none, ask := none }
    modify fun s => s.modHost fun h => { h with glaze := h.glaze ++ [z], glazeNext := h.glazeNext + 1 }

/-- CKPT_PACKET: the packet in turn, where it is a CKPT packet of a live queue (R287). -/
def execCkptPacket (s : State) : Host.Outcome State Fault Refusal :=
  .next (s.attempt fun s =>
    match nextTurn s with
    | (some t, s1) =>
      match t.kind, t.found with
      | 3, .packet w => ((ckptTurn t w s1).2).turned t
      | _, _ => s1
    | (none, s1) => s1)

end Sys2Proof.Machine
end

