-- ==== Sys2Proof/Machine/Shrink.lean ====
section
/-! DEFINITION. The removal of a failed tile from its partition (R18, R63) and the moves of pinned ranges (R37). -/

namespace Sys2Proof.Machine
open Sys2Proof

/-! ### A partition too small to shrink (R18) -/

/-- The partition is stopped: its contexts' queues are torn down, so that their packets complete with error status (R18).  It stays stopped
until the next power-on reset, whatever the owner writes to the partition map (DESIGN CHOICE, log 114). -/
def State.stopPartition (s : State) (p : Nat) : State :=
  let s : State := { s with stopped := p :: s.stopped }
  (s.validCtxs.filter fun c => s.ctxPart c == p).foldl (fun s c =>
    let g := s.queueAgent c
    let qb := s.ctxWord c 4
    let (l, s) := queuesIn g qb s
    l.foldl (fun s q => (teardown g qb q s).2) s) s

/-! ### Rebinding (R63) -/

/-- The coordinate of a virtual index on a grid `w` wide. -/
def coordOf (w v : Nat) : BitVec 16 := BitVec.ofNat 16 (v / w * 256 + v % w)

/-- Whether the holding die of an entry that is queued on die `d` is another one, with its coordinate rebound (R44, R63). -/
def State.leavesDie (s : State) (p d : Nat) (e : Entry) : Bool :=
  s.ctxPart e.ctx == p && e.moving.isNone && s.holdDie p (s.rebound p e.blk.coord) d != d

/-- A die without the queued entries that leave it; those that stay are rebound, and a move under way goes to the die that holds its
entry now (R63). -/
def Die.rebind (x : Die) (s : State) (p d : Nat) : Die :=
  let mine := fun (e : Entry) => s.ctxPart e.ctx == p
  let y := (x.revoke (s.leavesDie p d)).mapQueued mine (s.rebind p)
  { y with
    moves := y.moves.map fun m => if mine m.2 then (s.holdDie p m.2.blk.coord m.1, m.2) else m
    buckets := y.buckets.map fun b => (b.1, mapIf mine (s.rebind p) b.2)
    parked := x.parked.map fun k => if mine k.entry then { k with entry := s.rebind p k.entry } else k }

/-- The queued entries of die `d` are rebound: one whose holding die changes moves there with its EK and a new SEQ, a Chorus member to
the Chorus of that die (R44, R63). -/
def rebindDie (p d : Nat) : M Unit := do
  modify fun s => s.modDie d Die.settle
  let s ← get
  let x := s.die d
  let goes := fun (e : Entry) => s.leavesDie p d e
  let spilled ← ((x.buckets.flatMap (·.2)).filter goes).mapM fun e => ageOne d (x.ageStep - e.aged) e
  let away := ({ x with buckets := [], parked := [] }.revocable goes) ++ spilled
  modify fun t => t.modDie d fun x => x.rebind s p d
  away.forM fun e => do
    let e := s.rebind p e
    let h := s.holdDie p e.blk.coord d
    let q ← takeSeq h
    let c := ((← get).die h).cyc.toNat
    let e := { e with seq := q, enq := c, limited := false }
    if e.blk.bclass == 0 then heapArrive (s.agent h e.ctx) h e
    else modify fun s => s.modDie h fun x => { x with chIn := x.chIn ++ [e] }

/-! ### Pinned ranges (R37, R63) -/

/-- The control blocks whose pin lists are in effect, one each: (context, region of the block). -/
def pinOwners (p : Nat) : M (List (BitVec 16 × Nat)) := do
  let s ← get
  let mine := s.pinned.filter fun x => s.ctxPart x.1 == p
  mine.foldlM (fun l x => do
    match ← chain (s.agent 0 x.1) x.2.1.toNat with
    | none => return l
    | some c =>
      match effRung 3 c with
      | some r => return if r.isGhost || l.contains (x.1, r.r) then l else l ++ [(x.1, r.r)]
      | none => return l) []

/-- The pin entries of a control block; one that cannot be read is an error that cannot be pinned (R423). -/
def pinWords (g : Agent) (r : Nat) : M (List Word) := do
  match ← ask fun s => s.agentReads g (rcbAddr g r 16) 8 with
  | .ok w => return w
  | .error _ => do
    unpinned g r (BitVec.ofNat 64 (rcbAddr g r 16))
    return []

/-- The region of a pin entry. -/
def pinSpan (w : Word) : Nat × Nat := (fld w 47 24, fld w 47 24 + fld w 23 0)

/-- One pin entry: (context, region of its control block, number in the list, word). -/
abbrev PinEntry := BitVec 16 × Nat × Nat × Word

/-- The pin entries in use at a coordinate. -/
def pinsAt (owners : List (BitVec 16 × Nat)) (coord : BitVec 16) : M (List PinEntry) := do
  let s ← get
  owners.foldlM (fun l x => do
    let ws ← pinWords (s.agent 0 x.1) x.2
    return l ++ (ws.mapIdx fun k w => (x.1, x.2, k, w)).filter fun e => fld e.2.2.2 63 48 == coord.toNat && fld e.2.2.2 23 0 != 0) []

/-- One pin entry `k` at coordinate `old` goes to the tile that bears `new`: where it would overlap a range `there`, its length is
set to 0 with BUDGETHIT and its bytes are no longer charged; else the move waits and the entry is rewritten (R63). -/
def movePin (g : Agent) (r k : Nat) (w : Word) (src : Nat) (new : BitVec 16) (there : List (Nat × Nat)) : M Unit := do
  let s ← get
  let (lo, hi) := pinSpan w
  if there.any fun x => x.1 < hi && lo < x.2 then do
    orUnpinned g r (rcbPut g r (16 + k) (setFld w 23 0 0))
    setStatus g r 3
    bill g .sram r (-((hi - lo : Nat) : Int))
    modify fun s => { s with pinned := mapIf (fun x => x.1 == g.who.ctx && x.2.1.toNat == r) (fun x => (x.1, x.2.1, x.2.2 - (hi - lo))) s.pinned }
  else
    match s.coordTile g.part new with
    | some t => do
      orUnpinned g r (rcbPut g r (16 + k) (setFld w 63 48 new.toNat))
      if t != src then
        modify fun s => { s with pinMoves := s.pinMoves ++ [(sliceBase src + lo, sliceBase t + lo, hi - lo)] }
    | none => pure ()

/-- The moves of the pin entries `l` of tile `src` to the tile that bears coordinate `new`. (DEDUCED, log 82) -/
def movePins (l : List PinEntry) (new : BitVec 16) (src : Nat) (there : List PinEntry) : M Unit := do
  let s ← get
  l.forM fun e => movePin (s.agent 0 e.1) e.2.1 e.2.2.1 e.2.2.2 src new (there.map fun x => pinSpan x.2.2.2)

/-! ### The shrink (R63) -/

/-- The removal of a tile has been dealt with. -/
def State.shrunk (s : State) (t : Nat) : State := { s with shrinks := s.shrinks.filter (· != t) }

/-- Steps 3 to 6: tile `t`, at index `v` of partition `p`, has gone, and the tile of the highest index takes its place. -/
def shrinkNow (t p v : Nat) : M Unit := do
  let s ← get
  let n := s.partCount p
  let w := s.partWidth p
  let last := (s.virt p (n - 1)).getD t
  let w' := if n - 1 < w then n - 1 else w
  let owners ← pinOwners p
  let gone := coordOf w v
  let end_ := coordOf w (n - 1)
  let fromEnd ← pinsAt owners end_
  let fromGone ← pinsAt owners gone
  modify fun s => s.modHost fun h =>
    let e := Assoc.get 0 t h.pmap
    let m := Assoc.set 0 t 0 (if last == t then h.pmap else Assoc.set 0 last e h.pmap)
    { h with pmap := m, pwidth := Assoc.set 0 p (BitVec.ofNat 10 (w' - 1)) h.pwidth }
  let s1 ← get
  let goal := s1.rebound p end_
  let there ← pinsAt owners goal
  movePins fromEnd goal last there
  if last != t then movePins fromGone gone t []
  (List.range 4).forM fun d => rebindDie p d
  modify fun s => s.shrunk t

/-- Ask the task of a tile to yield for a shrink (R63, R236). -/
def State.askShrink (s : State) (t : Nat) : State :=
  s.modTile t fun x => if x.task.isNone then x else { x with preq := some (x.preq.getD (s.die (dieOf t)).cyc.toNat) }

/-- PARTITION_SHRINK: a tile that has failed leaves its partition (R18, R63).  Dispatch to it and to the tile of the highest index
stops and their tasks are asked to yield; once both tiles are free the coordinates change.  Removals of one partition follow one
another, and each waits for the moves of the one before. -/
def execPartitionShrink (t : TileNo) (s : State) : Host.Outcome State Fault Refusal :=
  let t := t.toNat
  match s.place t with
  | none => .next s
  | some (p, v) =>
    if !(s.tileAt t).failed || s.stopped.contains p then .next s
    else
      let s : State := if s.shrinks.contains t then s else { s with shrinks := s.shrinks ++ [t] }
      let head := s.shrinks.find? fun u => (s.place u).map (·.1) == some p
      if head != some t || !s.pinMoves.isEmpty then .next s
      else if s.partCount p ≤ 4 then .next (s.attempt fun s => (s.stopPartition p).shrunk t)
      else
        let last := (s.virt p (s.partCount p - 1)).getD t
        let busy := fun (u : Nat) => (s.tileAt u).task.isSome || (s.tileAt u).ended
        if busy t || busy last then .next ((s.askShrink t).askShrink last)
        else .next (s.attempt fun s => (shrinkNow t p v s).2)

/-- PIN_MOVE_DONE: the first waiting move of a pinned range is made; its source is read through the parity rebuild, and what cannot be
rebuilt stays an error at its new place (R63, R245). -/
def execPinMoveDone (s : State) : Host.Outcome State Fault Refusal :=
  match s.pinMoves with
  | [] => .next s
  | (src, dst, n) :: r =>
    let (s, _) := s.sense src n
    let lost := s.bad.filter fun w => src ≤ w && w < src + n
    let data := (List.range n).map fun i => BitVec.ofNat 8 (s.home (src + i) 1)
    let s := s.homeWrite dst data
    let code := lost.filter s.coded.contains
    let at_ := fun (l : List Nat) (a : List Nat) => l.foldl (fun a w => insertNat (w - src + dst) a) a
    .next { s with pinMoves := r, bad := at_ lost s.bad, coded := at_ code s.coded }

end Sys2Proof.Machine
end

