-- ==== Sys2Proof/Machine/Saves.lean ====
section
/-! DEFINITION. Faults made precise (R226), traps and asynchronous events (R100, R224 to R235), and the saves of tasks: at
SAFEPT, by WATCHDOG, for parking and after three mismatches (R128, R236 to R241, R247). -/

namespace Sys2Proof.Machine
open Sys2Proof

/-- Do something with tile `t` in turn. -/
def State.onFocus (s : State) (t : Nat) (f : State → State) : State := (f (s.focus t)).focus s.tileId

/-- Whether word number `q` belongs to the older of two open chunks, or the younger is not there. -/
def Tile.inOlder (x : Tile) (q : Nat) : Bool := match x.cur with | some c => decide (q < c.first) | none => true

/-! ### Deferred faults (R226) -/

/-- The deferred fault of a tile: the chunk is squashed and re-executed up to the word, and a word that was delivered alone
takes its trap, or parks its task (R128, R226). -/
def Tile.meetDeferred (x : Tile) (now : Nat) (d : Deferred) : Tile :=
  match x.chunkOf d.seq with
  | none => { x with deferred := none }
  | some c =>
    let n := d.seq - c.first
    let y := x.squash now (x.inOlder d.seq) false (some n)
    if c.lone && n == 0 then
      let y := { y with cur := none, fstop := true, trunc := false, deferred := none }
      match d.park with
      | some p => { y with saving := some (.park p false) }
      | none => { y with trap := some ⟨d.cause, d.idx, d.tval, d.idx, false⟩ }
    else { y with trunc := false, deferred := none }

/-- DEFERRED_FAULT: a fault that a word has met after its issue (R226). -/
def execDeferredFault (t : TileNo) (s : State) : Host.Outcome State Fault Refusal :=
  let t := t.toNat
  let x := s.tileAt t
  match x.deferred with
  | none => .next s
  | some d =>
    if x.task.isNone || x.cancelled then .next s
    else .next ((if x.inOlder d.seq then s.dropRequest t else s).modTile t fun x => x.meetDeferred s.now d)

/-! ### Precise traps (R225, R228, R234) -/

/-- The trap `r` reaches the task of a tile at the start state `st` with fetch `f`: in a handler, or with no handler, it ends the
task; else the frame is written and the handler begins (R228, R234). (DEDUCED, log 66) -/
def State.takeTrap (s : State) (t : Nat) (st : StartState) (f : Fetch) (r : TrapRec) (restart : Bool) : State :=
  if st.regs.inh then
    (s.modTile t fun x => { x with
      tcause := tcauseWord r.cause x.intr.isSome r.engine restart (x.lost && r.engine), tepc := BitVec.ofNat 64 r.epc, tval := r.tval }).faultEnd t
  else if st.regs.thandler == 0 then s.faultEnd t
  else s.onFocus t fun s => s.enterHandler st f r restart

/-- Whether a task runs on a tile that is awake. -/
def Tile.runs (x : Tile) : Bool := x.task.isSome && x.loading.isNone && x.gate == .awake && !x.cancelled

/-- TRAP_TAKE: the prefix of a precise trap has committed, and its interlocked results have landed (R100, R228). -/
def execTrapTake (t : TileNo) (s : State) : Host.Outcome State Fault Refusal :=
  let t := t.toNat
  let x := s.tileAt t
  match x.trap with
  | none => .next s
  | some r =>
    if x.runs && x.older.isNone && x.cur.isNone && x.pendingS.isEmpty && x.loads.isEmpty && x.votes.isEmpty then
      .next (s.attempt fun s => (s.modTile t fun x => { x with trap := none }).takeTrap t x.snap x.fetch r false)
    else .next s

/-! ### Asynchronous events (R100, R227, R235, R414) -/

/-- Truncate the chunk at the next word not yet delivered; a waiting WAITE is withdrawn and is that word (R100, R414). -/
def Tile.truncate (x : Tile) (now : Nat) : Tile :=
  let x := match x.waite with
    | some w => x.squash now (x.inOlder w.1) false none
    | none => x
  let x := { x with trunc := true }
  match x.cur with
  | some c => if c.count == 0 then { x with cur := none } else { x with cur := some { c with ended := true } }
  | none => x

/-- Truncate a chunk of a tile. -/
def State.truncate (s : State) (t : Nat) : State :=
  let x := s.tileAt t
  let s := match x.waite with | some w => if x.inOlder w.1 then s.dropRequest t else s | none => s
  s.modTile t fun x => x.truncate s.now

/-- Whether a precise or deferred fault, or the end of the task, stands before any asynchronous event (R226, R227).  What is behind a
waiting WAITE does not: the WAITE is withdrawn (R414). -/
def Tile.faulty (x : Tile) : Bool :=
  let of := fun (o : Option Chunk) => match o with
    | some c => c.trap.isSome || c.exits || c.safept.isSome || c.stopAt.isSome && !c.ended
        || c.lone && (c.issued == 0 || x.loads.any fun l => l.seq == c.first)
    | none => false
  x.deferred.isSome || x.saving.isSome || match x.waite with
    | some w => !x.inOlder w.1 && of x.older
    | none => x.trap.isSome || x.loneNext || of x.older || of x.cur

/-- The asynchronous event of the highest rank: an exception of a chunk, engine faults in their order, the interrupt
(R227). -/
def Tile.nextAsync (x : Tile) : Option AsyncEv :=
  match x.async with
  | e :: _ => some e
  | [] => x.intr.map fun k => ⟨causeInterrupt, zext64 k, false⟩

/-- Take that event off. -/
def Tile.popAsync (x : Tile) : Tile := match x.async with | _ :: r => { x with async := r } | [] => { x with intr := none }

/-- Whether every interlocked result has landed (R235). (DEDUCED, log 86) -/
def Tile.allLanded (x : Tile) : Bool := x.pendingS.isEmpty && x.pendingV.isEmpty && x.loads.isEmpty && x.votes.isEmpty

/-- Whether the truncated chunk stands so that the frame can be formed: it has committed or has been squashed, or every result
of its has landed and its commit can bring nothing more (R100, R235). -/
def Tile.framed (x : Tile) : Bool :=
  x.older.isNone && x.allLanded && match x.cur with
    | none => true
    | some c => c.count == 0 || c.complete && x.settled c && c.bnd.isNone && c.exception.isNone

/-- The trap of an event that has truncated the chunk: where the chunk has still to commit, it waits behind the handler's first
chunk, and its squash takes the trap again (R100). (DEDUCED, log 64) -/
def State.takeAsync (s : State) (t : Nat) (r : TrapRec) (lost : Bool) : State :=
  let x := s.tileAt t
  let enter := fun (restart : Bool) =>
    (s.modTile t fun x => { x with trunc := false, cur := none, lost := x.lost || lost }).takeTrap t x.snap x.fetch r restart
  match x.cur with
  | none => enter false
  | some c =>
    if c.count == 0 then enter true
    else (enter false).modTile t fun y => if y.task.isNone then y else { y with older := some { c with taken := some (r, x.lost && r.engine) } }

/-- ASYNC_TRAP_TAKE: an engine fault, an exception or an interrupt truncates the chunk, and is taken once the frame can be
formed (R100, R227, R228, R235). -/
def execAsyncTrapTake (t : TileNo) (s : State) : Host.Outcome State Fault Refusal :=
  let t := t.toNat
  let x := s.tileAt t
  let again := match x.cur with | some c => if c.count == 0 then c.taken else none | none => none
  if !x.runs then .next s
  else
    match again with
    | some (r, l) =>
      let r := { r with epc := x.fetch.pc, rpc := x.fetch.pc }
      .next (if x.older.isNone && x.allLanded then s.attempt fun s => s.takeAsync t r l else s)
    | none =>
      match x.nextAsync with
      | none => .next s
      | some e =>
        if x.regs.inh || x.faulty then .next s
        else if e.cause == causeInterrupt && x.regs.thandler == 0 then
          .next (s.modTile t fun x => { x.popAsync with trunc := false })
        else if !x.trunc then .next (s.truncate t)
        else if !x.framed || x.regs.thandler == 0 && (match x.cur with | some c => c.count != 0 | none => false) then .next s
        else
          .next (s.attempt fun s =>
            (s.modTile t Tile.popAsync).takeAsync t ⟨e.cause, x.fetch.pc, e.tval, x.fetch.pc, e.engine⟩ false)

/-! ### Forced saves (R239) -/

/-- Whether the boundary word of a tile is such a wait. (DEDUCED, log 37) -/
def Tile.waitsLong (x : Tile) : Bool := match x.bnd with | some b => b.commitNo.isSome && b.op.withdrawable | none => false

/-- Withdraw a wait with no effect: the chunks behind it go, and the task resumes at its word (R114, R240). -/
def Tile.withdraw (x : Tile) (now : Nat) : Tile :=
  match x.bnd with
  | none => x
  | some b =>
    let x := x.squash now x.older.isSome false none
    { x with bnd := none, cur := none, queue := [], fetch := b.before }

/-- Whether a forced save of a tile's task is due: PREEMPT die cycles have passed since the request, a slot is free, and no
event of a higher rank stands, but for those behind a wait that the save withdraws (R114, R227, R239). -/
def State.watchdogDue (s : State) (t : Nat) : M Bool := do
  let x := s.tileAt t
  let d := s.die (dieOf t)
  match x.task, x.preq with
  | some k, some c => do
    let lim ← preemptLimit (s.taskAgent t) k.blk.region.toNat
    let ev := match x.nextAsync with | some e => !x.regs.inh && !(e.cause == causeInterrupt && x.regs.thandler == 0) | none => false
    let back := match x.cur with | some c => c.taken.isSome && c.count == 0 | none => false
    return lim != 0 && decide (c + lim ≤ d.cyc.toNat) && 0 < d.freeSlots && x.loading.isNone && !x.cancelled
      && x.saving.isNone && (x.waitsLong || !x.faulty && !ev && !back)
  | _, _ => return false

/-- Whether the event of a waiting WAITE, other than its deadline, has come by the time of a save (R241). -/
def State.awaited (s : State) (t : Nat) : Bool :=
  let x := s.tileAt t
  match x.waite with
  | some (_, _, m, w) => x.waited || m.getLsbD 1 && decide (w ≠ Vector.ofFn fun i => x.tidst i.val)
  | none => false

/-- The next move of a forced save: wake the tile, truncate, withdraw a wait, and save once the chunk has committed and every
result has landed (R100, R235, R239). -/
def State.watchdogMove (s : State) (t : Nat) : State :=
  let x := s.tileAt t
  if x.gate != .awake then s.modTile t fun x => { x with stir := true }
  else if !x.trunc then
    let s1 := s.truncate t
    if s.awaited t then s1.modTile t fun x => { x with regs := { x.regs with wakepend := true }, snap := { x.snap with regs := { x.snap.regs with wakepend := true } } }
    else s1
  else if x.waitsLong then s.modTile t fun x => x.withdraw s.now
  else if x.older.isNone && (match x.cur with | some c => c.count == 0 | none => true) && x.bnd.isNone && x.allLanded then
    s.modTile t fun x => { x with cur := none, saving := some .watchdog }
  else s

/-- WATCHDOG_SAVE (R239). -/
def execWatchdogSave (t : TileNo) (s : State) : Host.Outcome State Fault Refusal :=
  let t := t.toNat
  .next (s.attempt fun s =>
    match s.watchdogDue t s with
    | (true, s) => s.watchdogMove t
    | (false, s) => s)

/-! ### What a save holds (R238, R239) -/

/-- The registers that the live map at word `m` marks, the others as after reset (R238, R367). -/
def Regs.live (r : Regs) (w0 w1 : Word) : Regs :=
  let k := Regs.clear
  { r with
    s := Vector.ofFn fun i => if bitAt w0 i.val && i.val != 0 then vget r.s i.val else 0
    p := if bitAt w1 48 then r.p else k.p
    v := Vector.ofFn fun i => if bitAt w1 i.val then vget r.v i.val else 0
    m := Vector.ofFn fun i => if i.val == 0 || bitAt w1 (31 + i.val) then vget r.m i.val else 0
    ps := Vector.ofFn fun i => if bitAt w1 (44 + i.val) then vget r.ps i.val else AccEntry.zero }

/-- Loop counters that the live map does not mark resume as zero (R238). -/
def Fetch.live (f : Fetch) (w1 : Word) : Fetch :=
  { f with lc := Vector.ofFn fun i => if bitAt w1 (39 + i.val) then vget f.lc i.val else 0 }

/-- The saved state of a task: at a safe point what is live, else all of R64 with the results in flight at X (R238, R239). (DEDUCED, log 65) -/
def State.savedOf (s : State) (t : Nat) (why : SaveWhy) : Saved :=
  let x := s.tileAt t
  let frame := fun (inh : Bool) => if inh then some (toBytes frameLen (s.home (sliceBase t + frameOff) frameLen)) else none
  match why with
  | .safept m =>
    let w0 := x.progWord m
    let w1 := x.progWord (m + 1)
    { regs := x.regs.live w0 w1
      fetch := x.fetch.live w1
      acc := Vector.ofFn fun i => if bitAt w1 (42 + i.val) then vget x.acc i.val else Acc.clear false
      inflight := []
      occ := []
      frame := frame x.regs.inh
      full := false
      solo := false
      async := x.async
      lost := x.lost
      intr := x.intr }
  | _ =>
    let k := x.snap
    let o := fun (e : Nat) => (e : Int) - k.f
    { regs := k.regs
      fetch := x.fetch
      acc := x.acc
      inflight := k.inflight.map fun (l : Landing) => { l with cyc := l.cyc - k.f }
      occ := [o k.ends.s, o k.ends.v, o k.ends.m, o k.ends.a]
      frame := frame k.regs.inh
      full := true
      solo := why == .mismatch && x.solo
      async := x.async
      lost := x.lost
      intr := x.intr }

/-- Whether every far operation, remote store and committed store of a tile is done, so that a FENCE that is performed again finds nothing of the
earlier chunks left (R122, DEDUCED, log 115). -/
def State.sentDone (s : State) (t : Nat) : Bool :=
  (s.far.all fun f => f.tile != some t) && (s.wb.all fun w => w.tile != t)
    && (s.tileAt t).remote.all fun r => match r.fin with | .ack => false | _ => true

/-- Whether everything that a save waits for on its tile has come (R237). -/
def Tile.saveReady (x : Tile) (why : SaveWhy) : Bool :=
  let fixed := match why with | .safept _ => x.inflight.isEmpty && x.votes.isEmpty | _ => true
  fixed && x.older.isNone && (match x.cur with | some c => c.count == 0 | none => true) && x.loads.isEmpty && x.drains.isEmpty
    && x.activeCmds.isEmpty && x.unsent.isEmpty && x.bnd.isNone

/-- The task of a tile enters Parked for a page (R128). -/
def State.parkTask (s : State) (t : Nat) (sv : Saved) (page : BitVec 36) : State :=
  match (s.tileAt t).entryOf (some sv) with
  | none => s
  | some e =>
    let d := dieOf t
    let g := s.agent d e.ctx
    let r := e.blk.region.toNat
    let s := s.modTile t fun x => { x with task := x.task.map fun (k : Task) => { k with buffer := none } }
    let s := s.taskEnd t
    match rcbState g r s with
    | (some 1, s) =>
      let s := (bill g .queue r 1 s).2
      { (s.modDie d fun x => { x with parked := x.parked ++ [⟨e, page, s.parkOrder⟩] }) with parkOrder := s.parkOrder + 1 }
    | (_, s) => s.freeBuffer e.buffer

/-- Whether a walk of a page finds a good leaf now (R128). -/
def State.pageThere (s : State) (t : Nat) (page : BitVec 36) : State × Bool :=
  let g := s.taskAgent t
  match s.walk g.die (s.partCount g.part) g.who.root (page.toNat * 0x10000) with
  | (s, .leaf ..) => (s, true)
  | (s, _) => (s, false)

/-- A save completes (R128, R237, R239, R247). -/
def State.saveNow (s : State) (t : Nat) (why : SaveWhy) : State :=
  let sv := s.savedOf t why
  match why with
  | .watchdog =>
    let s := s.modDie (dieOf t) fun x => { x with
      wdsaves := satInc x.wdsaves, ecode := 0x30, etile := BitVec.ofNat 9 t, eaddr := 0 }
    s.backToQueue t (some sv)
  | .park page true =>
    match s.pageThere t page with
    | (s, true) => s.backToQueue t (some sv)
    | (s, false) => s.parkTask t sv page
  | .park page false => s.parkTask t sv page
  | _ => s.backToQueue t (some sv)

/-- SAVE_COMPLETE: what a save waits for has come, replay windows close, waits are withdrawn, and the task leaves the tile with a save slot (R128,
R237 to R241, R247). -/
def execSaveComplete (t : TileNo) (s : State) : Host.Outcome State Fault Refusal :=
  let t := t.toNat
  let x := s.tileAt t
  match x.saving with
  | none => .next s
  | some why =>
    if x.task.isNone || x.cancelled then .next s
    else if x.gate != .awake then .next (s.modTile t fun x => { x with stir := true })
    else if x.windows.toList.any (·.isSome) then .next (s.modTile t fun x => { x with windows := Vector.replicate 2 none })
    else if x.waitsLong then .next (s.modTile t fun x => x.withdraw s.now)
    else if x.saveReady why && s.sentDone t && 0 < (s.die (dieOf t)).freeSlots then .next (s.attempt fun s => s.saveNow t why)
    else .next s

end Sys2Proof.Machine
end

