-- ==== Sys2Proof/Machine/Engine.lean ====
section
/-! DEFINITION. What the matrix and copy engines share: their reads and writes of memory (R93, R109, R130, R139, R194, R245,
R279), the scoreboard (R109), replay windows as holds (R193, R346), and faults that reach the task (R194, R201, R321). -/

namespace Sys2Proof.Machine
open Sys2Proof

/-! ### Reads and writes -/

/-- How an engine command stops short: a fault with its address, an uncorrectable error of a line, a wait for a home or an
agent's word with nothing done, or a wait for an answer that has been asked for. -/
inductive Halt
  | fault (cause : Byte) (tval : Word)
  | poison (line : Word)
  | wait
  | hold
deriving DecidableEq, Repr

/-- What an engine does: an answer, or how it stops. -/
abbrev E := ExceptT Halt M

/-- How a failed access stops an engine command (R128, R139, R194): `v` is the address. -/
def Bad.halt (b : Bad) (v : Word) : Halt :=
  match b with
  | .precise c w => .fault c w
  | .deferred c w => .fault c (if c == causeBudget then v else w)
  | .park _ => .fault causePageAbsent v
  | .retry => .wait

/-- The place of `n` bytes in one page that an engine reads or writes (R101 to R104, R130). -/
def enginePlace (g : Agent) (ga : Word) (n : Nat) (use : Use) : E Place := do
  let r ← place g false ga n use anyFmt
  match r with
  | .ok p => return p
  | .error b => throw (b.halt ga)

/-- Memory as a command reads it: committed stores, but not later ones of its own tile (R93, R109). -/
def State.engineRead (s : State) (c : Cmd) (pa n : Nat) : Nat :=
  readOver s.mem (s.wb.filter fun st => !(st.tile == c.who.tile && c.rel < st.commitNo)) pa n

/-- Bytes of the map are read: an uncorrectable error stops the command (R245). -/
def senseE (pa n : Nat) : E Unit := do
  let r := (← get).sense pa n
  set r.1
  if r.2 then throw (.poison (BitVec.ofNat 64 (pa / 64 * 64)))

/-- Read the pieces `l` (address in the place's own numbering, length) around the place of `ga`, and answer how they read: in the
map, or word by word from another device's frame. -/
def viewOf (g : Agent) (c : Cmd) (ga : Word) (x : Place) (l : List (Nat × Nat)) : E (Nat → Nat → Nat) := do
  match x with
  | .mem .. =>
    l.forM fun p => senseE p.1 p.2
    let s ← get
    return fun a n => s.engineRead c a n
  | .phys p k slot pa gen _ =>
    let va := fld ga 51 0
    let r := (← get).pullWords g.who.ctx p k slot gen (wordsAround va pa l)
    set r.1
    match r.2 with
    | some (cause, v) => throw (.fault cause v)
    | none => return r.1.pulledRead g.who.ctx va pa
  | _ => throw (.fault causePagePerm ga)

/-- The leaf of a paged place. -/
def Place.leaf? : Place → Option Leaf
  | .mem _ l => l
  | .phys _ _ _ _ _ l => some l
  | _ => none

/-- The physical address of a place, here or there; 0 where it has none. -/
def Place.base : Place → Nat
  | .mem pa _ => pa
  | .phys _ _ _ pa _ _ => pa
  | _ => 0

/-- A write of a command to the map: it follows the earlier stores of its own tile, and what the homes guard is checked (R93,
R109, R279). -/
def State.engineWrite (s : State) (c : Cmd) (pa : Nat) (b : List Byte) : State :=
  let (cells, s1) := s.letThrough c.who.by_ (cellsAt pa b)
  let own := fun (st : Store) => st.tile == c.who.tile && decide (st.commitNo ≤ c.rel)
  let wb := cells.foldl (fun w x => stripStores own x.1 1 w) s1.wb
  s.settle (({ s1 with wb := wb } : State).landCells cells) cells

/-- The stores by which a write reaches a frame of another device (DESIGN CHOICE, log 14). -/
def State.postTo (s : State) (ga : Word) (p : BitVec 12) (k : BitVec 16) (slot : BitVec 10) (pa : Nat) (gen : Byte) (b : List Byte) : State :=
  { s with posts := s.posts ++ (blocks224 b.length).map fun x =>
      ⟨kStore, ga, p, k, slot, pa + x.1, some gen, 4, BitVec.ofNat 64 x.2, 0, (b.drop x.1).take x.2⟩ }

/-- A new sequence number of a command's source (R139): its tile, or the host die for a packet. -/
def State.engineSeq (s : State) (c : Cmd) : BitVec 32 × State :=
  if c.who.tile < 512 then s.takeSrcSeq c.who.tile else (s.host.hostSeq, s.modHost fun h => { h with hostSeq := h.hostSeq + 1 })

/-- Write bytes at a place, as its home answers (R139). -/
def writeE (c : Cmd) (ga : Word) (x : Place) (b : List Byte) : E Unit := do
  match x with
  | .mem pa l =>
    let r := (← get).engineSeq c
    match r.2.arriveHome c.who.tile r.1 pa (l.map (·.gen)) false with
    | .apply pa s => set (s.engineWrite c pa b)
    | .stale s => set s
    | .wait => throw .wait
    | .away nd pa gen s =>
      match s.device c.who.ctx nd.toNat with
      | some (.there p k slot) => set (s.postTo ga p k slot pa gen b)
      | _ => throw (.fault causeRouteBad ga)
  | .phys p k slot pa gen _ => modify fun s => s.postTo ga p k slot pa gen b
  | _ => throw (.fault causePagePerm ga)

/-! ### The scoreboard and open windows (R109, R193, R346) -/

/-- Whether two commands conflict: the later reads what the earlier writes, or writes what it reads or writes. -/
def Cmd.conflicts (early late : Cmd) : Bool :=
  early.wr.any (fun a => late.rd.any fun b => a.overlaps b) || (early.rd ++ early.wr).any fun a => late.wr.any fun b => a.overlaps b

/-- Whether the scoreboard holds a released command of a tile (R109). -/
def Tile.scoreHeld (x : Tile) (c : Cmd) : Bool := x.activeCmds.any fun d => decide (d.seq < c.seq) && d.conflicts c

/-- Whether an open window of a tile holds the writes of a command (R193). -/
def Tile.windowHeld (x : Tile) (c : Cmd) : Bool :=
  x.windows.toList.any fun w => match w with | some w => c.wr.any w.holds | none => false

/-- Close the windows that hold the writes of a command (R346). -/
def Tile.closeFor (x : Tile) (c : Cmd) : Tile :=
  { x with windows := x.windows.map fun w => match w with
      | some w => if c.wr.any w.holds then none else some w
      | none => none }

/-- Whether the next matrix command waits for a copy: it is its follow-on, or reads or writes what the copy moves (R199, R346). -/
def Tile.matrixWaits (x : Tile) (c : Cmd) : Bool :=
  match x.mqueue with
  | h :: _ => h.waitsCopy && h.seq == c.seq || decide (c.seq < h.seq) && c.conflicts h
  | [] => false

/-! ### Faults and flags of commands (R147, R152, R194, R201, R321) -/

/-- A fault of a command reaches its task, or is recorded where the task has ended (R321). -/
def State.engineFault (s : State) (t : Nat) (c : Cmd) (cause : Byte) (tval : Word) : State :=
  if c.orphan then s.errRec (dieOf t) 0x53 t (if cause == causePageFormat || cause == causeTwinMismatch then 0 else tval)
  else s.modTile t fun x => x.raiseAsync ⟨cause, tval, true⟩

/-- The exception that enabled flags of a command raise (R152). -/
def Cmd.exception (c : Cmd) (f : FFlags) : Option AsyncEv :=
  let e := enabledFlags c.fpctl f
  if e == 0 then none
  else
    let cause := if e.toNat % 32 == 0 then causeOutlierOvf else causeArith
    some ⟨cause, pack [(c.idx, 0), (f.toNat % 32, 16), (f.toNat / 32, 21), (1, 22)], true⟩

/-- The flags of a command that completes: into FPCTL, with the exception that they raise (R147, R152). -/
def State.engineFlags (s : State) (t : Nat) (c : Cmd) (f : FFlags) : State :=
  if c.orphan then s
  else
    s.modTile t fun x =>
      let y := (x.landVar c.seq .none f).noteFlags s.now f
      match c.exception f with
      | some e => y.raiseAsync e
      | none => y

end Sys2Proof.Machine
end

