-- ==== Sys2Proof/Machine/MatrixRun.lean ====
section
/-! DEFINITION. The matrix engine: operands (R183 to R188), products and promotion (R153 to R159, R340), twin mode (R192), replay
windows (R193, R345, R346), drains (R189, R190, R337, R344) and faults (R194). -/

namespace Sys2Proof.Machine
open Sys2Proof

/-! ### Operands -/

/-- An operand as the engine reads it: of element (row, k) the code, the unscaled value with its flags, and the scale; and the
block length of a paged narrow operand (R144, R183, R186, R188). -/
structure OpdIn where
  code : Nat → Nat → Nat
  value : Nat → Nat → FVal × FFlags
  scale : Nat → Nat → Scale
  bl : Option Nat

/-- Element (row, k) of a register operand (R183). -/
def Tile.opdCode (x : Tile) (now r : Nat) (t : ETy) (kk row k : Nat) : Nat :=
  let bit := (row * kk + k) * t.place
  (x.vecAt (r + bit / 16384) now).toNat / 2 ^ (bit % 16384) % 2 ^ t.width

/-- A segment of a scratchpad operand as it reads (R186). -/
structure SegIn where
  pa : Nat
  leaf : Option Leaf
  rd : Nat → Nat → Nat

/-- Element `j` of a segment: the index in its page where that is narrow (R129). -/
def SegIn.index (x : SegIn) (l : Leaf) (j : Nat) : Nat := (x.pa - l.base x.pa) * 8 / l.geo.e + j

/-- The code of element `j`. -/
def SegIn.code (x : SegIn) (t : ETy) (j : Nat) : Nat :=
  x.rd (x.pa + j * t.place / 8) (ceilDiv t.width 8) / 2 ^ (j * t.place % 8) % 2 ^ t.width

/-- The leaf of a segment in a narrow page. -/
def SegIn.narrow (x : SegIn) : Option Leaf := match x.leaf with | some l => if l.narrow then some l else none | none => none

/-- The unscaled value of element `j` (R144). -/
def SegIn.value (x : SegIn) (t : ETy) (j : Nat) : FVal × FFlags :=
  match x.narrow with
  | some l =>
    let i := x.index l j
    elemUnscaled t (x.code t j) (i % l.geo.b) (l.outliers x.rd (l.base x.pa) (i / l.geo.b))
  | none => elemUnscaled t (x.code t j) 0 []

/-- The scale of element `j` (R143). -/
def SegIn.scale (x : SegIn) (j : Nat) : Scale :=
  match x.narrow with
  | some l => l.scale x.rd (l.base x.pa) (x.index l j / l.geo.b)
  | none => Scale.one

/-- Read one segment: the format of its page, its data area, its bytes and the side areas of its blocks (R129, R131, R188). -/
def segIn (g : Agent) (c : Cmd) (t : ETy) (ga : Word) : E SegIn := do
  let x ← enginePlace g ga 64 .rd
  let pa := x.base
  let side ← match x.leaf? with
    | none => pure []
    | some l =>
      if fmtTy l.fmt != some t then throw (.fault causePageFormat 0)
      if !l.narrow then pure []
      else
        let o := pa - l.base pa
        if l.geo.dataEnd < o + 64 then throw (.fault causePageFormat 0)
        let per := l.geo.b * l.geo.e / 8
        pure ((List.range (64 / per)).flatMap fun n => l.side (l.base pa) (o / per + n))
  let rd ← viewOf g c ga x ((pa, 64) :: side)
  return ⟨pa, x.leaf?, rd⟩

/-- The block length that the narrow pages of segments agree on (R188). (DEDUCED, log 75) -/
def blockLen (l : List SegIn) : E (Option Nat) :=
  let bs := l.filterMap fun x => x.narrow.map fun l => l.geo.b
  match bs with
  | [] => return none
  | b :: r => if r.all (· == b) then return some b else throw (.fault causePageFormat 0)

/-- Read an operand of `kk` elements along K. -/
def opdIn (g : Agent) (c : Cmd) (o : MOpd) (isA : Bool) (t : ETy) (kk : Nat) : E OpdIn := do
  match o with
  | .regs r =>
    let s ← get
    let code := (s.tileAt c.who.tile).opdCode s.now r.toNat t kk
    return ⟨code, fun i k => elemUnscaled t (code i k) 0 [], fun _ _ => Scale.one, none⟩
  | .pad base pw =>
    let l ← (segs base pw isA t kk).mapM (segIn g c t)
    let b ← blockLen l
    let at_ := fun (i k : Nat) => l.getD (k / panelK t * sideRows isA + i) ⟨0, none, fun _ _ => 0⟩
    return ⟨fun i k => (at_ i k).code t (k % panelK t), fun i k => (at_ i k).value t (k % panelK t),
      fun i k => (at_ i k).scale (k % panelK t), b⟩

/-- The block length of a command (R188). -/
def commandBlock (a b : OpdIn) (kk : Nat) : E Nat := do
  let n := match a.bl, b.bl with
    | some x, some y => if x == y then x else 0
    | some x, none => x
    | none, some y => y
    | none, none => 16
  if n == 0 || kk % n != 0 then throw (.fault causePageFormat 0) else return n

/-! ### Products and promotion (R153 to R159, R340) -/

/-- A block's exact sum in units of 2^−300, which divides every product of two elements, and the state bits it raises. -/
structure BlockSum where
  sum : Int
  nan : Bool
  pinf : Bool
  ninf : Bool
deriving DecidableEq, Repr

/-- A block with nothing added. -/
def BlockSum.zero : BlockSum := ⟨0, false, false, false⟩

/-- The product of two elements: that of L6 codes by R155, an escape and every other by the values (R153, R156). -/
def product (p : Pair) (ca cb : Nat) (va vb : FVal) : FVal :=
  if p == .l6l6 && !isEscape .l6 ca && !isEscape .l6 cb then
    let x := l6Prod ca cb
    .exact (decide (x < 0)) x.natAbs (-23)
  else (fMul va vb).1

/-- Add one product to a block (R156): `z` says that the product of the scales is 0. -/
def BlockSum.add (b : BlockSum) (z : Bool) (x : FVal) : BlockSum :=
  match x with
  | .nan _ => { b with nan := true }
  | .inf n => if z then { b with nan := true } else if n then { b with ninf := true } else { b with pinf := true }
  | .fin n m e _ =>
    let v : Int := shlInt m (e + 300)
    { b with sum := b.sum + (if n then -v else v) }

/-- Promote a block (R158). -/
def Run.promote (r : Run) (l : Int) (b : BlockSum) (sa sb : Scale) : Run :=
  let r := { r with nan := r.nan || b.nan, pinf := r.pinf || b.pinf, ninf := r.ninf || b.ninf }
  if !sa.valid || !sb.valid then { r with nan := true }
  else r.addPartial l (decide (b.sum < 0)) (b.sum.natAbs * sa.m * sb.m) (sa.e + sb.e - 300)

/-- What an MMA does to entry (i, j): block length `n`, or product by product for BF16 (R159, R340). -/
def mmaEntry (p : Pair) (fiz : Bool) (l : Int) (kk n : Nat) (a b : OpdIn) (i j : Nat) (x : AccEntry) : AccEntry :=
  if p == .bf16bf16 then
    let v := fun (o : OpdIn) (r k : Nat) => elemValue .bf16 (fizCode .bf16 fiz (o.code r k))
    ((List.range kk).foldl (fun r k => r.addValue l (fMul (v a i k) (v b j k)).1) x.run).finish
  else
    ((List.range (kk / n)).foldl (fun r m =>
      let sa := a.scale i (m * n)
      let sb := b.scale j (m * n)
      let s := (List.range n).foldl (fun s q =>
        let k := m * n + q
        s.add (sa.m * sb.m == 0) (product p (a.code i k) (b.code j k) (a.value i k).1 (b.value j k).1)) BlockSum.zero
      r.promote l s sa sb) x.run).finish

/-- OO where some operand holds an escape with no entry (R144, R156). -/
def mmaFlags (p : Pair) (kk : Nat) (a b : OpdIn) : FFlags :=
  if p == .bf16bf16 then 0
  else
    let f := fun (o : OpdIn) (rows : Nat) => orAll ((List.range rows).flatMap fun i => (List.range kk).map fun k => (o.value i k).2)
    f a 128 ||| f b 64

/-! ### Accumulators -/

/-- The keys of an accumulator's entries. -/
def accKeys : List (Nat × Nat) := (List.range 128).flatMap fun i => (List.range 64).map fun j => (i, j)

/-- The key of an entry. -/
def accKey (e : Nat × Nat) : Nat := e.1 * 64 + e.2

/-- Entry at a key, and its check word. -/
def Acc.at_ (x : Acc) (k : Nat) : AccEntry := Assoc.get AccEntry.zero k x.entries
def Acc.checkAt (x : Acc) (k : Nat) : CheckWord := Assoc.get AccEntry.zero.checkWord k x.check

/-- The check word as the second copy brings it on (R192). -/
def CheckWord.step (c : CheckWord) (old new : AccEntry) : CheckWord :=
  ⟨BitVec.ofNat 16 (((c.m.toNat : Int) + new.v.toInt - old.v.toInt) % 65521).toNat, c.bits ||| new.checkWord.bits⟩

/-- Every entry by a function, with the second copy kept where `twin` (R192). -/
def Acc.update (x : Acc) (twin : Bool) (f : Nat → Nat → AccEntry → AccEntry) : Acc :=
  let l := accKeys.map fun e => (accKey e, f e.1 e.2 (x.at_ (accKey e)))
  { x with
    entries := l.filter fun e => e.2 != AccEntry.zero
    check := if twin then (l.map fun e => (e.1, (x.checkAt e.1).step (x.at_ e.1) e.2)).filter fun e => e.2 != AccEntry.zero.checkWord
      else x.check }

/-- NAN in every entry (R194); the check words agree with it. (DEDUCED, log 69) -/
def Acc.fail (x : Acc) : Acc := x.update true fun _ _ e => { e with nan := true }

/-- Whether every entry agrees with its check word (R192). -/
def Acc.agrees (x : Acc) : Bool := accKeys.all fun e => (x.at_ (accKey e)).checkWord == x.checkAt (accKey e)

/-- An accumulator as an MMA begins: cleared by ZERO, disarmed without TWIN (R192, R340). -/
def Acc.begin (x : Acc) (zero twin : Bool) : Acc := if zero then Acc.clear twin else if twin then x else { x with armed := false }

/-- An MMA from `x` on (R340). -/
def mmaOn (g : Agent) (c : Cmd) (a b : MOpd) (kk : Nat) (p : Pair) (zero twin : Bool) (x : Acc) : E (Acc × FFlags) := do
  let ia ← opdIn g c a true p.tyA kk
  let ib ← opdIn g c b false p.tyB kk
  let n ← if p == .bf16bf16 then pure 1 else commandBlock ia ib kk
  return ((x.begin zero twin).update twin (mmaEntry p (fpFiz c.fpctl) (lsbExp c.window) kk n ia ib), mmaFlags p kk ia ib)

/-- A command as a replay re-executes it: an MMA or an MZERO (R193, R345). -/
def replayOne (g : Agent) (x : Acc × FFlags) (c : Cmd) : E (Acc × FFlags) :=
  match c.op with
  | .mma _ a b kk p zero twin => mmaOn g c a b kk p zero twin x.1
  | .mzero _ => return (Acc.clear true, 0)
  | _ => return x

/-! ### Windows (R193) -/

/-- The accumulator that a matrix operation names. -/
def CmdOp.acc : CmdOp → Nat
  | .mma a .. | .mzero a | .mdrain a .. | .mstore a .. | .mtile a => if a then 1 else 0
  | _ => 0

/-- The window in which a command runs: at a 33rd command it has closed. -/
def Tile.windowOf (x : Tile) (n : Nat) : Option Window :=
  match vget x.windows n with
  | some w => if w.cmds.length < 32 then some w else none
  | none => none

/-- The registers of a register operand. -/
def CmdOp.regs (o : CmdOp) : List Nat :=
  match o with
  | .mma _ a b k p _ _ =>
    (match a with | .regs r => (List.range (opdRegs true p.tyA k)).map fun i => r.toNat + i | .pad .. => [])
      ++ (match b with | .regs r => (List.range (opdRegs false p.tyB k)).map fun i => r.toNat + i | .pad .. => [])
  | _ => []

/-- A window with one more command of its own. -/
def Window.push (w : Window) (c : Cmd) : Window :=
  let rd := (match c.op with | .mma .. => c.rd | _ => []).filter fun (r : Range) => r.dev.isNone
  let hull := rd.foldl (fun (h : Option (Nat × Nat)) (r : Range) => match h with
    | some (lo, hi) => some (min lo r.lo, max hi r.hi)
    | none => some (r.lo, r.hi)) w.range
  { w with cmds := w.cmds ++ [c], range := hull, regs := c.op.regs.foldl (fun l r => insertNat r l) w.regs, replay := false }

/-- The engine leaves a command with its accumulator as given. -/
def State.matrixEnd (s : State) (t : Nat) (c : Cmd) (x : Acc) : State :=
  s.modTile t fun y =>
    let n := c.op.acc
    { y with mqueue := y.mqueue.drop 1, mstart := none, mwrite := none, acc := vset y.acc n x, idleSince := s.now
             windows := vset y.windows n ((y.windowOf n).map fun w => w.push c) }

/-- A fault stops a command: NAN in every entry (R194). -/
def State.matrixFault (s : State) (t : Nat) (c : Cmd) (x : Acc) (cause : Byte) (tval : Word) : State :=
  (s.matrixEnd t c x.fail).engineFault t c cause tval

/-- A replay begins: the snapshot is restored and the engine starts anew (R193). (DEDUCED, log 73) -/
def State.beginReplay (s : State) (t : Nat) (c : Cmd) (w : Window) : State :=
  s.modTile t fun y => { y with mstart := some s.now, mwrite := none, acc := vset y.acc c.op.acc w.snap, windows := vset y.windows c.op.acc (some { w with replay := true }) }

/-- How a command that reads operands ends (R193, R194): `x` is its accumulator as it stands. -/
def State.matrixHalt (s0 s : State) (t : Nat) (c : Cmd) (x : Acc) (h : Halt) : State :=
  match h with
  | .fault k v => s.matrixFault t c x k v
  | .wait => s0
  | .hold => s
  | .poison line =>
    match (s.tileAt t).windowOf c.op.acc with
    | some w => if w.replay || w.dirty then s.matrixFault t c x causePoisonData line else s.beginReplay t c w
    | none => s.matrixFault t c x causePoisonData line

/-! ### When a command runs (R182, R199, R346) -/

/-- K steps in four tc of a pair (R9). -/
def pairRate : Pair → Nat
  | .e4m3e4m3 | .e2m1e4m3 | .i8i8 => 4
  | .e4m3e5m2 | .e5m2e5m2 => 2
  | .e2m1e2m1 | .l6l6 => 8
  | .bf16bf16 => 1

/-- The time of a command in the engine (R182). -/
def CmdOp.time : CmdOp → Nat
  | .mma _ _ _ k p _ twin => 24 + ceilDiv (4 * k) (pairRate p) * (if twin then 2 else 1)
  | .mzero _ => 8
  | .mtile _ => 32
  | .mdrain .. | .mstore .. => 64
  | _ => 0

/-- Whether a fixed-latency result of an earlier word is still bound for a register operand. -/
def Tile.operandsDue (x : Tile) (c : Cmd) : Bool :=
  (x.inflight ++ x.votes.map (·.a)).any fun l => decide (l.seq < c.seq) && match l.dest with | .vec r _ _ => c.op.regs.contains r.toNat | _ => false

/-- The head of a tile's matrix queue gets its turn: it starts once its operands are present and the scoreboard lets it, closing a
window that would hold its writes, and `run` is its effect when its time in the engine has passed. -/
def State.matrixTurn (s : State) (t : Nat) (kind : CmdOp → Bool) (run : Cmd → State → State) : State :=
  let x := s.tileAt t
  match x.mqueue with
  | [] => s
  | c :: _ =>
    if !kind c.op || c.waitsCopy then s
    else
      match x.mstart with
      | none =>
        if x.scoreHeld c || x.operandsDue c then s
        else s.modTile t fun y => { y.closeFor c with mstart := some s.now }
      | some b => if s.now < b + c.op.time then s else run c s

/-! ### The commands -/

/-- Which of the five a command is. -/
def CmdOp.isMma : CmdOp → Bool
  | .mma .. => true
  | _ => false
def CmdOp.isMzero : CmdOp → Bool
  | .mzero _ => true
  | _ => false
def CmdOp.isMtile : CmdOp → Bool
  | .mtile _ => true
  | _ => false
def CmdOp.isMdrain : CmdOp → Bool
  | .mdrain .. => true
  | _ => false
def CmdOp.isMstore : CmdOp → Bool
  | .mstore .. => true
  | _ => false

/-- MMA when its time has passed (R193, R194, R199, R340). -/
def State.mmaRun (s : State) (t : Nat) (c : Cmd) : State :=
  match c.op with
  | .mma _ a b kk p zero twin =>
    let x := vget (s.tileAt t).acc c.op.acc
    if c.copyDone == some false then s.matrixEnd t c x.fail
    else
      let g := s.identAgent c.who
      let r := match (s.tileAt t).windowOf c.op.acc with
        | some w => if w.replay then (w.cmds ++ [c]).foldlM (replayOne g) (w.snap, (0 : FFlags)) else mmaOn g c a b kk p zero twin x
        | none => mmaOn g c a b kk p zero twin x
      match r.run s with
      | (.ok (y, f), s1) => (s1.matrixEnd t c y).engineFlags t c f
      | (.error h, s1) => s.matrixHalt s1 t c (x.begin zero twin) h
  | _ => s

/-- MMA_EXECUTE (R340). -/
def execMmaExecute (t : TileNo) (s : State) : Host.Outcome State Fault Refusal :=
  .next (s.matrixTurn t.toNat CmdOp.isMma fun c s => s.attempt fun s => s.mmaRun t.toNat c)

/-- MZERO_EXECUTE (R348). -/
def execMzeroExecute (t : TileNo) (s : State) : Host.Outcome State Fault Refusal :=
  .next (s.matrixTurn t.toNat CmdOp.isMzero fun c s => s.matrixEnd t.toNat c (Acc.clear true))

/-- MTILE_EXECUTE: the accumulator is snapshot and a new window opens (R193, R345). -/
def execMtileExecute (t : TileNo) (s : State) : Host.Outcome State Fault Refusal :=
  .next (s.matrixTurn t.toNat CmdOp.isMtile fun c s =>
    let n := c.op.acc
    let x := vget (s.tileAt t.toNat).acc n
    (s.matrixEnd t.toNat c x).modTile t.toNat fun y =>
      { y with windows := vset y.windows n (if c.orphan then none else some ⟨x, [], none, [], false, false⟩) })

/-- The rounding mode of a drain (R146, R160). -/
def rmOf (rm : Rm) (fpctl : Word) : Nat :=
  match rm with
  | .rne => 0 | .rtz => 1 | .rup => 2 | .rdn => 3 | .rna => 4 | .dyn => fpRm fpctl

/-- A drain of an accumulator (R192): an armed one is compared with its check words, a mismatch is replayed once inside a window,
and `k` drains it otherwise. -/
def State.drainAcc (s : State) (t : Nat) (c : Cmd) (k : Acc → State → State) : State :=
  let n := c.op.acc
  let x := vget (s.tileAt t).acc n
  let w := (s.tileAt t).windowOf n
  let check := fun (x : Acc) (again : Bool) (s1 : State) =>
    if x.armed && !x.agrees then
      match w, again with
      | some w, false => if w.dirty then (s1.matrixEnd t c x).engineFault t c causeTwinMismatch (BitVec.ofNat 64 n) else s1.beginReplay t c w
      | _, _ => (s1.matrixEnd t c x).engineFault t c causeTwinMismatch (BitVec.ofNat 64 n)
    else k x s1
  match w with
  | some w =>
    if w.replay then
      match (w.cmds.foldlM (replayOne (s.identAgent c.who)) (w.snap, (0 : FFlags))).run s with
      | (.ok (y, _), s1) => check y true s1
      | (.error h, s1) => s.matrixHalt s1 t c x h
    else check x false s
  | none => check x false s

/-- The rounded entries of an accumulator in order, with their flags (R160, R337). -/
def Acc.drained (x : Acc) (c : Cmd) (ty : ETy) (rm : Rm) : List (Nat × FFlags) :=
  accKeys.map fun e => (x.at_ (accKey e)).drain (lsbExp c.window) ty (rmOf rm c.fpctl) (fpFoz c.fpctl)

/-- The registers of a drain on their way: they land 16 tc later, the last with the exception (R182, R189). -/
def drainLands (c : Cmd) (vd : VReg) (ty : ETy) (at_ : Nat) (l : List (Nat × FFlags)) : List (Load × Option AsyncEv) :=
  let per := 16384 / ty.place
  let f := orAll (l.map (·.2))
  (List.range ty.drainRegs).map fun q =>
    let v := placeElems ty ((List.range per).map fun i => (i, (l.getD (q * per + i) (0, 0)).1))
    (⟨c.seq, c.idx, .vec (vd + BitVec.ofNat 5 q) v.1 v.2, at_, none, f⟩, if q + 1 == ty.drainRegs then c.exception f else none)

/-- MDRAIN_EXECUTE (R189, R337). -/
def execMdrainExecute (t : TileNo) (s : State) : Host.Outcome State Fault Refusal :=
  let t := t.toNat
  .next (s.matrixTurn t CmdOp.isMdrain fun c s => s.attempt fun s =>
    s.drainAcc t c fun x s =>
      let s1 := s.matrixEnd t c x
      match c.op with
      | .mdrain _ vd ty rm =>
        if c.orphan then s1
        else s1.modTile t fun y => { y with drains := y.drains ++ drainLands c vd ty (s.now + 16) (x.drained c ty rm) }
      | _ => s1)

/-- Whether a page takes the output of an MSTORE (R131, R190). -/
def outFits (l : Option Leaf) (ty : OutTy) : Bool :=
  match l with
  | none => true
  | some l => l.fmt == 0 || match ty with | .raw => false | .ty t => fmtTy l.fmt == some t

/-- The bytes of row `i` of an MSTORE, with its flags (R163, R344). -/
def Acc.row (x : Acc) (c : Cmd) (ty : OutTy) (rm : Rm) (i : Nat) : List Byte × FFlags :=
  match ty with
  | .raw => ((List.range 64).flatMap fun j => (x.at_ (i * 64 + j)).image (lsbExp c.window), 0)
  | .ty t =>
    let l := (List.range 64).map fun j => (x.at_ (i * 64 + j)).drain (lsbExp c.window) t (rmOf rm c.fpctl) (fpFoz c.fpctl)
    (toBytes (outRow ty) ((List.range 64).foldl (fun a j => a + (l.getD j (0, 0)).1 * 2 ^ (j * t.place)) 0), orAll (l.map (·.2)))

/-- The flags of an MSTORE (R344). -/
def Acc.storeFlags (x : Acc) (c : Cmd) (ty : OutTy) (rm : Rm) : FFlags := orAll ((List.range 128).map fun i => (x.row c ty rm i).2)

/-- Write one sector of an MSTORE at an address; the answer is the translation that it used (R131, R133, R190). -/
def storeSector (g : Agent) (c : Cmd) (ty : OutTy) (ga : Word) (b : List Byte) : E (List TlbEntry) := do
  let x ← enginePlace g ga 32 .wr
  if !outFits x.leaf? ty then throw (.fault causePageFormat 0)
  writeE c ga x b
  return x.leaf?.toList.map fun l => ⟨g.who.ctx, BitVec.ofNat 36 (fld ga 51 0 / 0x10000), l.big, l.w0, l.w1, []⟩

/-- Sector `k` of an MSTORE: its row, and its offset in the row.  Rows ascend, and in a row addresses (R111, R190). -/
def sectorOf (ty : OutTy) (k : Nat) : Nat × Nat := let n := outRow ty / 32; (k / n, k % n * 32)

/-- The next sector of an MSTORE that writes lands, or the command is over (R111, R190, R344). -/
def State.mstoreStep (s : State) (t : Nat) (c : Cmd) (k : Nat) (kept : List TlbEntry) : State :=
  match c.op with
  | .mstore _ base rp ty rm =>
    let x := vget (s.tileAt t).acc c.op.acc
    let (i, off) := sectorOf ty k
    if 128 ≤ i then (s.matrixEnd t c x).engineFlags t c (x.storeFlags c ty rm)
    else
      let g := { s.identAgent c.who with keep := kept }
      match (storeSector g c ty (base + BitVec.ofNat 64 (i * rp + off)) (((x.row c ty rm i).1.drop off).take 32)).run s with
      | (.ok l, s1) => s1.modTile t fun y => { y with mwrite := some (k + 1, l ++ kept.filter fun e => !l.contains e) }
      | (.error h, s1) => s.matrixHalt s1 t c x h
  | _ => s

/-- MSTORE_EXECUTE: the twin check once the time in the engine has passed, then a sector in turn, four in a tc at most (R182, R190, R195,
R344). (DEDUCED, log 71) -/
def execMstoreExecute (t : TileNo) (s : State) : Host.Outcome State Fault Refusal :=
  let t := t.toNat
  .next (s.matrixTurn t CmdOp.isMstore fun c s =>
    let y := s.tileAt t
    match y.mwrite with
    | none => s.attempt fun s => s.drainAcc t c fun x s =>
        s.modTile t fun y => { y with acc := vset y.acc c.op.acc x, mwrite := some (0, []) }
    | some (k, l) => if s.now < y.mstart.getD 0 + c.op.time + k / 4 then s else s.attempt fun s => s.mstoreStep t c k l)

end Sys2Proof.Machine
end

