-- ==== Sys2Proof/Machine/CopyRun.lean ====
section
/-! DEFINITION. The copy engines: sectors (R111, R115), plain, converting, gathering and scattering copies (R196, R198, R200),
completion and failure (R33, R195, R197, R201, R204). -/

namespace Sys2Proof.Machine
open Sys2Proof

/-! ### Transfers -/

/-- A transfer in progress. -/
def State.xferOn (s : State) (x : XferAt) : Option Xfer :=
  match x with
  | .chan t ch => vget (s.tileAt t.toNat).xfers ch.toNat
  | .packet d i => ((s.die d.toNat).pktCopies[i]?).map (·.xfer)

/-- The agent and key by which requests name a transfer. -/
def State.xferKey (s : State) (x : XferAt) : Nat × BitVec 2 × Nat :=
  match x with
  | .chan t ch => (t.toNat, ch, 0)
  | .packet d i => (512, 0, (((s.die d.toNat).pktCopies[i]?).map (·.ref.key)).getD 0)

/-- Change a transfer. -/
def State.modXferOn (s : State) (x : XferAt) (f : Xfer → Xfer) : State :=
  let (ag, ch, key) := s.xferKey x
  s.modXfer ag ch key f

/-- The agent whose translation a transfer uses (R20, R204). -/
def State.xferAgent (s : State) (x : XferAt) (c : Cmd) : Agent :=
  match x with
  | .chan .. => s.identAgent c.who
  | .packet .. => s.queueAgent c.who.ctx

/-- The barrier of a transfer: a field of the word, or of the packet (R197, R204). -/
def State.xferBar (s : State) (x : XferAt) (c : Cmd) : Option Word :=
  match x with
  | .chan .. => if c.fut then none else c.bar
  | .packet d i => ((s.die d.toNat).pktCopies[i]?).bind (·.bar)

/-- Destination bytes of a copy. -/
def Cmd.total (c : Cmd) : Nat :=
  match c.op with
  | .copy _ _ len p => len * pathBytes p
  | .gath _ _ idx size | .scat _ _ idx size => idx.length * size
  | _ => 0

/-- An address some signed number of bytes from another. -/
def offsetBy (a : Word) (k : Int) : Word := BitVec.ofInt 64 ((a.toNat : Int) + k)

/-- The sector that lands after `p` bytes: its address and its bytes of the transfer (R111). -/
def Cmd.sector (c : Cmd) (p : Nat) : Word × Nat :=
  let (ga, left) := match c.op with
    | .copy dst .. | .gath dst .. => (dst + BitVec.ofNat 64 p, c.total - p)
    | .scat dst _ idx size => (offsetBy dst (idx.getD (p / size) 0 * size + (p % size : Nat)), size - p % size)
    | _ => (0, 0)
  (ga, min left (32 - ga.toNat % 32))

/-- The source bytes of a sector, as addresses and lengths, of a copy that does not convert (R196, R200). -/
def Cmd.sources (c : Cmd) (p n : Nat) : List (Word × Nat) :=
  match c.op with
  | .copy _ src _ _ | .scat _ src _ _ => [(src + BitVec.ofNat 64 p, n)]
  | .gath _ src idx size =>
    (List.range ((p + n - 1) / size - p / size + 1)).map fun q =>
      let e := p / size + q
      let lo := max p (e * size)
      (offsetBy src (idx.getD e 0 * size + (lo - e * size : Nat)), min (p + n) ((e + 1) * size) - lo)
  | _ => []

/-! ### Reading the source -/

/-- Bytes of another device that a copy has asked for, as the block at place `part` of the transfer (R265, R267). -/
def pullBytes (x : XferAt) (ga : Word) (pl : Place) (part n : Nat) : E (List Byte) := do
  let s ← get
  let (ag, ch, key) := s.xferKey x
  match (s.reqs ag).find? fun r => r.fin == .pull ch && r.loadSeq == key && r.part == part with
  | some r => match r.got with | some b => return b.take n | none => throw .hold
  | none =>
    match pl.request kLoad 4 ga (BitVec.ofNat 64 n) 0 [] with
    | none => throw (.fault causePagePerm ga)
    | some q =>
      if ag < 512 && 64 ≤ (s.reqs ag).length then throw .hold
      let r := if ag < 512 then s.request ag q (.pull ch) key part 0 else s.hostRequest q (.pull ch) key part
      set r.1
      match r.2 with
      | some c => throw (.fault c ga)
      | none => throw .hold

/-- The place of `n` bytes of a transfer, which keeps the translation it uses (R133). -/
def xferPlace (x : XferAt) (g : Agent) (ga : Word) (n : Nat) (use : Use) : E Place := do
  let pl ← enginePlace g ga n use
  match pl.leaf? with
  | none => pure ()
  | some l =>
    let e : TlbEntry := ⟨g.who.ctx, BitVec.ofNat 36 (fld ga 51 0 / 0x10000), l.big, l.w0, l.w1, []⟩
    modify fun s => s.modXferOn x fun f => if f.kept.contains e then f else { f with kept := e :: f.kept }
  return pl

/-- The bytes of a piece, each with its address in the map where it has one. -/
def pieceBytes (x : XferAt) (g : Agent) (c : Cmd) (part : Nat) (ga : Word) (n : Nat) : E (List (Option Nat × Byte)) := do
  let l ← (granules (fld ga 51 0) n).mapM fun q => do
    let a := ga + BitVec.ofNat 64 q.1
    let pl ← xferPlace x g a q.2 .rd
    match pl with
    | .mem pa _ => do
      senseE pa q.2
      let s ← get
      pure ((List.range q.2).map fun i => (some (pa + i), BitVec.ofNat 8 (s.engineRead c (pa + i) 1)))
    | pl => do
      let b ← pullBytes x a pl (part + q.1) q.2
      pure ((List.range q.2).map fun i => ((none : Option Nat), b.getD i 0))
  return l.flatten

/-- The bytes of a sector of a copy that does not convert. -/
def plainBytes (x : XferAt) (g : Agent) (c : Cmd) (p n : Nat) : E (List (Option Nat × Byte)) := do
  let ps := c.sources p n
  let l ← (List.range ps.length).mapM fun i =>
    pieceBytes x g c (p + ((ps.take i).map (·.2)).sum) (ps.getD i (0, 0)).1 (ps.getD i (0, 0)).2
  return l.flatten

/-- The bytes as a copy byte by byte in ascending order leaves them: a source byte that the sector has overwritten before is read
anew (R196). (DEDUCED, log 78) -/
def byteByByte (dst : Option Nat) (l : List (Option Nat × Byte)) : List Byte :=
  l.foldl (fun out b =>
    let v := match b.1, dst with
      | some a, some d => if d ≤ a && a < d + out.length then out.getD (a - d) 0 else b.2
      | _, _ => b.2
    out ++ [v]) []

/-! ### Conversion (R198) -/

/-- The named type of a converting copy. -/
def pathTy : CPath → ETy
  | .bf16 => .bf16 | _ => .f32

/-- An element of the source as a value with its flags. -/
def floatIn (fiz : Bool) (t : ETy) (b : List Byte) : FVal × FFlags := inValue t fiz (ofBytes b)

/-- Element `e` of a converting copy's source; memory that another device's address names has the named type, like flat SRAM (R131, R144,
R198, DESIGN CHOICE, log 110). -/
def sourceElem (x : XferAt) (g : Agent) (c : Cmd) (t : ETy) (src : Word) (e : Nat) : E (FVal × FFlags) := do
  let fiz := fpFiz c.fpctl
  let first ← xferPlace x g src 1 .rd
  match first.leaf? with
  | none => do
    let z := t.width / 8
    if src.toNat % z != 0 then throw (.fault causeMisalign src)
    let b ← pieceBytes x g c (e * z) (src + BitVec.ofNat 64 (e * z)) z
    return floatIn fiz t (b.map (·.2))
  | some l =>
    match fmtTy l.fmt with
    | none => throw (.fault causePageFormat src)
    | some u =>
      if u == .i32 then throw (.fault causePageFormat src)
      if !l.narrow then
        let z := u.width / 8
        if src.toNat % z != 0 then throw (.fault causeMisalign src)
        let a := src + BitVec.ofNat 64 (e * z)
        let pl ← xferPlace x g a z .rd
        if pl.fmt != l.fmt then throw (.fault causePageFormat a)
        let rd ← viewOf g c a pl [(pl.base, z)]
        return floatIn fiz u (toBytes z (rd pl.base z))
      else
        let pb := l.base first.base
        let w := l.geo.e
        let i := (first.base - pb) * 8 / w + e
        if l.geo.dataEnd * 8 < (i + 1) * w then throw (.fault causePageFormat (src + BitVec.ofNat 64 (e * w / 8)))
        let rd ← viewOf g c src first ((pb + i * w / 8, 1) :: l.side pb (i / l.geo.b))
        return l.decode rd pb i

/-- The destination bytes of a sector of a converting copy, with the flags of its elements. -/
def convBytes (x : XferAt) (g : Agent) (c : Cmd) (src : Word) (path : CPath) (p n : Nat) : E (List Byte × FFlags) := do
  let t := pathTy path
  let z := t.width / 8
  (List.range (n / z)).foldlM (fun (a : List Byte × FFlags) k => do
    let v ← sourceElem x g c t src (p / z + k)
    let r := roundTo t (fpRm c.fpctl) (fpFoz c.fpctl) v.1
    return (a.1 ++ toBytes z r.1, a.2 ||| v.2 ||| r.2)) ([], 0)

/-- Whether the destination of a converting copy takes the named type: a page that another device's address names does (R131, R198, DESIGN CHOICE, log 110). -/
def convFits (path : CPath) (pl : Place) : Bool :=
  path == .plain || match pl.leaf? with
    | some l => fmtTy l.fmt == some (pathTy path)
    | none => true

/-! ### Landing a sector (R111, R115) -/

/-- Send a sector to another device: its landing is acknowledged there (R120, R264). -/
def sendSector (x : XferAt) (ga : Word) (pl : Place) (b : List Byte) : E Unit := do
  let s ← get
  let (ag, ch, key) := s.xferKey x
  if ag < 512 && 64 ≤ (s.reqs ag).length then throw .hold
  match pl.request kCopydata 0 ga (BitVec.ofNat 64 b.length) 0 b with
  | none => throw (.fault causePagePerm ga)
  | some q =>
    let r := if ag < 512 then s.request ag q (.sector ch b.length) key 0 0 else s.hostRequest q (.sector ch b.length) key
    set r.1
    match r.2 with
    | some c => throw (.fault c ga)
    | none => modify fun s => s.modXferOn x fun f => { f with unacked := f.unacked + 1 }

/-- The requests of a transfer for source bytes have been used. -/
def State.dropPulls (s : State) (x : XferAt) : State :=
  let (ag, ch, key) := s.xferKey x
  s.modReqs ag fun l => l.filter fun r => !(r.fin == .pull ch && r.loadSeq == key)

/-- One sector of a transfer: read, convert, write, apply the landing, advance. -/
def landSector (x : XferAt) (f : Xfer) : E Unit := do
  let c := f.cmd
  let g := { (← get).xferAgent x c with keep := f.kept }
  let (ga, n) := c.sector f.pos
  let path := match c.op with | .copy _ _ _ p => p | _ => .plain
  let src := match c.op with | .copy _ src .. => src | _ => 0
  if path != .plain && ga.toNat % (pathTy path).width.div 8 != 0 then throw (.fault causeMisalign ga)
  let (bytes, fl) ← if path == .plain then do let b ← plainBytes x g c f.pos n; pure (b, (0 : FFlags))
    else do let r ← convBytes x g c src path f.pos n; pure (r.1.map fun b => ((none : Option Nat), b), r.2)
  let pl ← xferPlace x g ga n .wr
  if !convFits path pl then throw (.fault causePageFormat ga)
  let out := byteByByte (match pl with | .mem pa _ => some pa | _ => none) bytes
  match pl with
  | .mem .. => do
    writeE c ga pl out
    modify fun s => s.xferLand f (s.xferBar x c) n
  | pl => sendSector x ga pl out
  modify fun s => (s.dropPulls x).modXferOn x fun f => { f with pos := f.pos + n, flags := f.flags ||| fl, waitFor := s.now + 1 }

/-- SECTOR_LAND: the next destination sector of a transfer becomes visible, and its barrier is decremented (R111, R115); what stops
it fails the transfer (R201). (DESIGN CHOICE, log 77) (DESIGN CHOICE, log 96) -/
def execSectorLand (x : XferAt) (s : State) : Host.Outcome State Fault Refusal :=
  match s.xferOn x with
  | none => .next s
  | some f =>
    if f.fault.isSome || f.cmd.total ≤ f.pos || s.now < f.waitFor then .next s
    else
      .next (s.attempt fun s =>
        match (landSector x f).run s with
        | (.ok _, s1) => s1
        | (.error .wait, _) => s
        | (.error .hold, s1) => s1
        | (.error (.fault c v), s1) => s1.modXferOn x fun f => f.fail (statusOf c) v
        | (.error (.poison v), s1) => s1.modXferOn x fun f => f.fail (statusOf causePoisonData) v)

/-! ### A channel takes its next transfer (R109, R195, R346) -/

/-- COPY_TRANSFER: a channel that is idle starts its oldest released transfer once the scoreboard and the open windows let it; a
window that would hold what the matrix engine waits for closes (R109, R193, R195, R346). -/
def execCopyTransfer (t : TileNo) (ch : BitVec 2) (s : State) : Host.Outcome State Fault Refusal :=
  let x := s.tileAt t.toNat
  match vget x.chans ch.toNat, vget x.xfers ch.toNat with
  | c :: r, none =>
    if x.scoreHeld c || x.windowHeld c && !(c :: r).any x.matrixWaits then .next s
    else
      .next (s.modTile t.toNat fun y =>
        { y.closeFor c with
          chans := vset y.chans ch.toNat r
          xfers := vset y.xfers ch.toNat (some ⟨c, 0, 0, none, s.now + 1, 0, false, []⟩) })
  | _, _ => .next s

/-! ### Completion (R33, R197, R201, R204) -/

/-- What became of a transfer's future: resolved or failed, not EMPTY, unreachable, or its home holds the access. -/
inductive FutEnd | set | twice | lost (cause : Byte) | wait
deriving DecidableEq, Repr

/-- Where a future lies, by the translation made when the transfer completes: no page is allocated and no task parks (R197). -/
def futureSpot (g : Agent) (ga : Word) : M (Except Byte (Nat × Option Byte)) := do
  let s ← get
  match s.device g.who.ctx (fld ga 63 52) with
  | some .here =>
    match spaceOf (fld ga 51 0) with
    | .flat sl off =>
      match s.flatPlace g false sl off 16 ga with
      | .ok (.mem pa _) => return .ok (pa, none)
      | _ => return .error causePagePerm
    | .paged =>
      match ← ask fun s => s.walk g.die (s.partCount g.part) g.who.root (fld ga 51 0) with
      | .fault c => return .error c
      | .absent .. => return .error causePageAbsent
      | .leaf w0 w1 lvl _ =>
        let l : Leaf := ⟨w0, w1, lvl == 1⟩
        let away := l.rdev != 0xFFF && (match s.device g.who.ctx l.rdev with | some .here => false | _ => true)
        if leafRefuses (← get) g.who l .atomic || away then return .error causePagePerm
        else return .ok (l.pa (fld ga 51 0), some l.gen)
    | _ => return .error causePagePerm
  | _ => return .error causePagePerm

/-- Resolve or fail a transfer's future (R33, R139, R197). -/
def futureEnd (g : Agent) (c : Cmd) (prog ga value : Word) (fail : Bool) : M FutEnd := do
  match ← futureSpot g ga with
  | .error k => return .lost k
  | .ok (pa, gen) =>
    if (← get).undrained pa 16 then return .wait
    else
      let r := (← get).engineSeq c
      match r.2.arriveHome c.who.tile r.1 pa gen false with
      | .wait => return .wait
      | .stale s | .away _ _ _ s => do
        set s
        return .lost causePageAbsent
      | .apply pa s => do
        let q := s.sense pa 16
        set q.1
        if q.2 then return .lost causePoisonData
        else if ← resolve g prog pa value fail then return .set else return .twice

/-- Whether every sector of a transfer has landed and been acknowledged, or it has failed (R120, R201). -/
def Xfer.over (f : Xfer) : Bool := (f.fault.isSome || f.cmd.total ≤ f.pos) && f.unacked == 0

/-- The follow-on of a copy learns of its end (R199). -/
def Tile.copyEnds (x : Tile) (c : Cmd) (ok : Bool) : Tile :=
  { x with mqueue := mapIf (fun d => d.waitsCopy && d.seq == c.seq) (fun d => { d with copyDone := some ok }) x.mqueue }

/-- A transfer of a task completes: channel, follow-on, flags, fault, and an unreachable future (R147, R197, R199, R201). -/
def State.channelEnd (s : State) (t : Nat) (ch : BitVec 2) (f : Xfer) (e : FutEnd) : State :=
  let c := f.cmd
  let s := s.modTile t fun x => ({ x with xfers := vset x.xfers ch.toNat none, idleSince := s.now }).copyEnds c f.fault.isNone
  let s := match f.fault with
    | some (st, v) => if c.orphan && f.late then s else s.engineFault t c (causeOf st) v
    | none => s
  let s := match e with
    | .lost k => s.engineFault t c k (c.bar.getD 0)
    | _ => s
  s.engineFlags t c f.flags

/-- TRANSFER_COMPLETE on a channel. -/
def chanComplete (t : Nat) (ch : BitVec 2) (f : Xfer) (s : State) : State :=
  let c := f.cmd
  let s := s.dropPulls (.chan (BitVec.ofNat 9 t) ch)
  match c.fut, c.bar with
  | true, some ga =>
    let (value, fail) := match f.fault with | some (st, _) => (zext64 st, true) | none => (zext64 c.tid, false)
    match futureEnd (s.identAgent c.who) c (s.tileAt t).progbase ga value fail s with
    | (.wait, _) => s
    | (e, s1) => s1.channelEnd t ch f e
  | _, _ => s.channelEnd t ch f .set

/-- TRANSFER_COMPLETE of a COPY packet: its future and its status; that of a queue torn down is TORN (R33, R40, R41, R204). (DEDUCED, log 80) -/
def pktComplete (d i : Nat) (p : PktCopy) (s : State) : State :=
  let c := p.xfer.cmd
  let s := s.dropPulls (.packet (BitVec.ofNat 2 d) i)
  let g := s.queueAgent c.who.ctx
  let qb := s.ctxWord c.who.ctx 4
  let (desc, s) := goodDesc g qb p.ref.q.toNat s
  let torn := match desc with | some x => x.state == 2 | none => false
  let st : Byte := if torn then 0x04 else match p.xfer.fault with | some (k, _) => k | none => 0
  let finish := fun (st : Byte) (s : State) =>
    let s := s.modDie d fun x => { x with pktCopies := x.pktCopies.eraseIdx i }
    (completePacket g qb p.ref.q.toNat p.ref.idx st s).2
  match p.fut with
  | none => finish st s
  | some ga =>
    let s1 := s.tick
    match futureEnd g c (s.ctxWord c.who.ctx 5) ga (if st == 0 then Config.packetValue s1.free else zext64 st) (st != 0) s1 with
    | (.wait, _) => s
    | (.set, s1) => finish st s1
    | (.twice, s1) => finish (if st == 0 then 0x18 else st) s1
    | (.lost k, s1) => finish (if st == 0 then statusOf k else st) s1

/-- TRANSFER_COMPLETE: a transfer whose sectors have all landed, or that has failed, completes (R33, R195, R197, R199, R201, R204). -/
def execTransferComplete (x : XferAt) (s : State) : Host.Outcome State Fault Refusal :=
  match s.xferOn x with
  | none => .next s
  | some f =>
    if !f.over then .next s
    else
      .next (s.attempt fun s =>
        match x with
        | .chan t ch => chanComplete t.toNat ch f s
        | .packet d i =>
          match (s.die d.toNat).pktCopies[i]? with
          | some p => pktComplete d.toNat i p s
          | none => s)

end Sys2Proof.Machine
end

