-- ==== Sys2Proof/Machine/Gating.lean ====
section
/-! DEFINITION. Power gating of tiles and wake messages (R241 to R243), and cycles that the duty of a die gates (R294). -/

namespace Sys2Proof.Machine
open Sys2Proof

/-- Whether the conditions under which a tile begins to gate hold now (R242). -/
def Tile.idleNow (x : Tile) : Bool :=
  (x.task.isNone || x.waitsLong || x.waite.isSome) && x.inflight.isEmpty && x.votes.isEmpty && x.loads.isEmpty && x.drains.isEmpty
    && x.activeCmds.isEmpty && !x.ended

/-- The tile's account of how long it has been idle: cycle `c` is not idle (R242). -/
def Tile.noteIdle (x : Tile) (c : Nat) : Tile := if x.idleNow then x else { x with idleSince := c + 1 }

/-- GATING_ENTRY: after 256 idle tc an awake tile begins to gate (R242). -/
def execGatingEntry (t : TileNo) (s : State) : Host.Outcome State Fault Refusal :=
  .next (s.modTile t.toNat fun x =>
    if x.gate == .awake && !x.failed && !x.wake && !x.stir && x.idleNow && decide (x.idleSince + 256 ≤ s.now) then { x with gate := .entering s.now false } else x)

/-- GATING_COMPLETE: entry completes 48 tc after its start E; after a wake since E + 32 the tile ungates at once (R243). -/
def execGatingComplete (t : TileNo) (s : State) : Host.Outcome State Fault Refusal :=
  .next (s.modTile t.toNat fun x =>
    match x.gate with
    | .entering e w => if e + 48 ≤ s.now then { x with gate := if w then .ungating s.now else .gated } else x
    | _ => x)

/-- UNGATE_COMPLETE: 96 tc after its start, ungating is complete; the 256 tc of R242 are counted anew (DEDUCED, log 28). -/
def execUngateComplete (t : TileNo) (s : State) : Host.Outcome State Fault Refusal :=
  .next (s.modTile t.toNat fun x =>
    match x.gate with
    | .ungating e => if e + 96 ≤ s.now then { x with gate := .awake, idleSince := s.now } else x
    | _ => x)

/-- What a wake does to gating (R243): before E + 32 entry aborts, and issue goes on within 4 tc (the number is free: DESIGN CHOICE, log 7); then it
is latched; a gated tile ungates.  -/
def Tile.rouse (x : Tile) (now free : Nat) : Tile :=
  match x.gate with
  | .awake | .ungating _ => x
  | .gated => { x with gate := .ungating now }
  | .entering e w =>
    if now < e + 32 then
      let k := now + (Config.latency free).toNat % 5
      { x with gate := .awake, idleSince := now, fresume := max x.fresume k
               occ := ⟨max x.occ.s k, max x.occ.v k, max x.occ.m k, max x.occ.a k⟩ }
    else { x with gate := .entering e (w || true) }

/-- Whether a save has been decided, by a SAFEPT at its issue or by WATCHDOG, and is not complete (R237, R241). -/
def Tile.beingSaved (x : Tile) : Bool :=
  let at_ := fun (c : Option Chunk) => match c with | some c => c.safept.isSome | none => false
  x.saving.isSome || x.trunc && x.nextAsync.isNone && x.preq.isSome || at_ x.older || at_ x.cur

/-- Set TSTAT.WAKEPEND, in the start states of the open chunks too: a squash does not lose a wake (R229, R241). -/
def Tile.setWakepend (x : Tile) : Tile :=
  let st := fun (k : StartState) => { k with regs := { k.regs with wakepend := true } }
  let ch := fun (c : Option Chunk) => c.map fun (c : Chunk) => { c with start := c.start.map st }
  { x with regs := { x.regs with wakepend := true }, snap := st x.snap, older := ch x.older, cur := ch x.cur }

/-- What a wake message does: it ends a WAITE that selects it, unless an interrupt withdraws that first (R413, R414); during a save it
sets WAKEPEND (R241). -/
def Tile.wakened (x : Tile) (now free : Nat) : Tile :=
  let x := { x with wake := false }
  let x := match x.waite with
    | some (_, _, m, _) => if m.getLsbD 2 && !(x.intr.isSome && x.regs.thandler != 0) then { x with waited := true } else x
    | none => x
  let x := if x.beingSaved then x.setWakepend else x
  x.rouse now free

/-- WAKE_MESSAGE: the wake register of a tile is taken; several wakes have merged into it (R242, R243).  A fault or a save that needs the
core ends its gating and no more. -/
def execWakeMessage (t : TileNo) (s : State) : Host.Outcome State Fault Refusal :=
  let x := s.tileAt t.toNat
  if x.wake then .next ((s.modTile t.toNat fun x => { x with stir := false }.wakened s.now s.free).tick)
  else if x.stir then .next ((s.modTile t.toNat fun x => { x with stir := false }.rouse s.now s.free).tick)
  else .next s

/-! ### Duty (R294) -/

/-- A landing of cycle `c` or later comes one cycle later. -/
def Landing.held (l : Landing) (c : Nat) : Landing := if c ≤ l.cyc then { l with cyc := l.cyc + 1 } else l

/-- A tile in a cycle `c` that the duty gates: no engine issues, no countdown of a fixed latency goes on, the matrix array
holds (R294). -/
def Tile.hold (x : Tile) (c : Nat) : Tile :=
  { x with
    occ := x.occ.shift 1
    ends := x.ends.shift 1
    fresume := if c ≤ x.fresume then x.fresume + 1 else x.fresume
    inflight := x.inflight.map fun (l : Landing) => l.held c
    votes := x.votes.map fun (v : Vote) => { v with a := v.a.held c, b := v.b.held c, c := v.c.held c }
    mstart := x.mstart.map (· + 1)
    drains := x.drains.map fun (d : Load × Option AsyncEv) => (if c ≤ d.1.ready then { d.1 with ready := d.1.ready + 1 } else d.1, d.2) }

/-- The tiles that the duty of their die gates in the cycle that begins hold (R294). -/
def State.holdGated (s : State) : State :=
  s.tiles.foldl (fun s t =>
    let x := s.tileAt t
    if (x.task.isSome || !x.mqueue.isEmpty) && s.dutyHeld t then s.setTile t (x.hold s.now) else s) s

end Sys2Proof.Machine
end

