-- ==== Sys2Proof/Machine/Upkeep.lean ====
section
/-! DEFINITION. What the module does by itself: walks for TLB misses (R125, R132, R135), the scrub (R246), power samples and thresholds
(R295, R296), and power-on reset (R298). -/

namespace Sys2Proof.Machine
open Sys2Proof

/-! ### Walks (R125, R132, R135) -/

/-- TRANSLATION_WALK: the walker of the tile's die completes the walk of `va` for a TLB miss of the tile's task: a good leaf is held.
PARK, ALLOC and faults are the access's own (DESIGN CHOICE, log 8). -/
def execTranslationWalk (t : TileNo) (va : BitVec 52) (s : State) : Host.Outcome State Fault Refusal :=
  let t := t.toNat
  let g := s.tileAgent t
  let va := va.toNat
  if (s.tileAt t).task.isNone || spaceOf va != .paged || (findTlb (s.tileAt t).tlb g.who.ctx va).isSome then .next s
  else
    match s.walk g.die (s.partCount g.part) g.who.root va with
    | (s, .leaf w0 w1 lvl blocks) =>
      let e : TlbEntry := ⟨g.who.ctx, BitVec.ofNat 36 (va / 0x10000), lvl == 1, w0, w1, blocks⟩
      .next (s.modTile t fun x => { x with tlb := holdTlb x.tlb e })
    | (s, _) => .next s

/-! ### The scrub (R246) -/

/-- The lines of the slices that are not read as they stand: those with a word in error, and those of a failed bank, ascending. -/
def State.scrubLines (s : State) : List Nat :=
  let l := (s.bad.filter isSlice).foldl (fun a w => insertNat (w / 64 * 64) a) []
  s.tiles.foldl (fun a t =>
    let lost := (List.range 8).filter fun b => (s.tileAt t).lostBank b
    lost.foldl (fun a b => (List.range 6144).foldl (fun a r => insertNat (sliceBase t + r * 512 + b * 64) a) a) a) l

/-- The scrub reads one line: what can be corrected is written back, except to a failed bank, which is not written (R245, R246). -/
def State.scrubLine (s : State) (line : Nat) : State :=
  let (s, bad) := s.senseLine line line (line + 64)
  let x := s.tileAt (sliceTile line)
  if bad || x.lostBank (bankOf (sliceOff line)) then s
  else { s with bad := s.bad.filter fun w => !(line ≤ w && w < line + 64) }

/-- Every line of every slice is read; nothing is raised (R246). -/
def State.scrub (s : State) : State := s.scrubLines.foldl (fun s l => s.scrubLine l) s

/-- SCRUB_PASS: once per 2^27 tc (R246). (DEDUCED, log 74) -/
def execScrubPass (s : State) : Host.Outcome State Fault Refusal :=
  if s.scrubs < s.now / 2 ^ 27 then .next { s.scrub with scrubs := s.now / 2 ^ 27 } else .next s

/-! ### Power (R295, R296) -/

/-- The counters that a threshold may select, by SEL 0 to 12 (R296). -/
def State.powerCounters (s : State) : List Nat :=
  s.host.pmod.toNat :: ((List.range 8).map fun i => (vget s.host.dieSensors i).toNat)
    ++ (List.range 4).map fun d => (s.die d).votefix.toNat + (s.die d).parfix.toNat

/-- The duty of a die after a sample (R295). -/
def newDuty (pmod limit hyst : Nat) (kmin k : BitVec 4) : BitVec 4 :=
  if limit < pmod then (if kmin < k then k - 1 else k)
  else if pmod + hyst < limit then (if k < 15 then k + 1 else k)
  else k

/-- Whether a pair of samples crosses a threshold in its direction: a level that is met counts as its upper side (R296, DEDUCED, log 29). -/
def Threshold.crossed (h : Threshold) (old new : List Nat) : Bool :=
  let x := old[h.sel.toNat]?
  let y := new[h.sel.toNat]?
  match x, y with
  | some x, some y =>
    let l := h.level.toNat
    h.en && if h.dir then decide (x < l ∧ l ≤ y) else decide (l ≤ x ∧ y < l)
  | _, _ => false

/-- Whether an instance of the management task of threshold `j` is queued or running (R42). -/
def State.mgmtLive (s : State) (j : Nat) : Bool :=
  let of := fun (e : Entry) => e.mgmt == some j
  s.dies.toList.any (fun x => (x.heap ++ x.moves.map (·.2) ++ x.buckets.flatMap (·.2) ++ x.chIn ++ x.parked.map (·.entry)
      ++ x.ch.toList.flatMap fun c => c.collecting ++ c.closing ++ c.backlog).any of)
    || s.tiles.any fun t => match (s.tileAt t).task with | some k => k.mgmt == some j | none => false

/-- A crossing of threshold `j` enqueues its block, from the die of virtual tile (0, 0); one that cannot be read, or that R26 refuses,
is dropped (R42, R44, R296; DESIGN CHOICE, log 27 for its context and address). -/
def crossing (j : Nat) (h : Threshold) : M Unit := do
  let s ← get
  if s.mgmtLive j then pure ()
  else
    let ctx := Config.mgmtCtx j
    let d := s.headDie (s.ctxPart ctx)
    let g := s.agent d ctx
    let here := match s.device ctx (fld h.blk 63 52) with | some .here => true | _ => false
    if !here || h.blk.toNat % 64 != 0 || !s.ctxValid ctx then pure ()
    else
      match ← ask fun s => s.agentReads g (fld h.blk 51 0) 8 with
      | .error _ => pure ()
      | .ok w =>
        let b := blockOf w
        match ← checkBlock g (s.ctxWord ctx 5) d .threshold [] b with
        | none => enqueue g d b (some j)
        | some _ => pure ()

/-- One sample of the counters: PMOD and the die sensors are read, the duties change, crossings release their tasks. -/
def State.samplePower (s : State) (pmod : BitVec 32) : State :=
  let old := s.host.sampled
  let s := (s.modHost fun h => { h with
    pmod := pmod
    psample := h.cyc.toNat / 4096
    dieSensors := Vector.ofFn fun i => Config.dieSensor s.free i.val
    duty := h.duty.map fun k => newDuty pmod.toNat h.plimit.toNat h.physt.toNat h.kmin k }).tick
  let new := s.powerCounters
  let s := s.modHost fun h => { h with sampled := new }
  ((List.range 16).forM fun j =>
    let h := vget s.host.thresholds j
    if h.crossed old new then crossing j h else pure ()) s |>.2

/-- POWER_SAMPLE: every 4,096 host-die cycles the host die samples the module power (R295). -/
def execPowerSample (pmod : BitVec 32) (s : State) : Host.Outcome State Fault Refusal :=
  if s.host.psample < s.host.cyc.toNat / 4096 then .next (s.attempt fun s => s.samplePower pmod) else .next s

/-! ### Bring-up (R298) -/

/-- The self-test marks a failed bank of a tile, and fails the tile at a second one (R245, R298). (DESIGN CHOICE, log 85) -/
def State.selfTest (s : State) (t b : Nat) : State :=
  let x := s.tileAt t
  if !x.degraded then
    (s.modTile t fun x => { x with degraded := true, fbank := BitVec.ofNat 3 b }).errRec (dieOf t) 0x50 t (BitVec.ofNat 64 (sliceBase t))
  else if x.fbank.toNat == b || x.failed then s
  else (s.modTile t fun x => { x with fbank2 := some (BitVec.ofNat 3 b) }).failTile t 0x51 (sliceBase t)

/-- POWER_ON_RESET: the module passes the steps of bring-up and leaves reset; after a failed step it is held, with the step's number.
Flash and storage keep what they hold (R284, R298). -/
def execPowerOnReset (failedStep : Option (BitVec 3)) (failedBanks : List (TileNo × BitVec 3)) (rootPort : Bool) (s : State) :
    Host.Outcome State Fault Refusal :=
  let past := fun (k : Nat) => match failedStep with | some f => decide (k < f.toNat) | none => true
  let r : State := { State.reset with inputs := s.inputs, free := s.free }
  let r := r.modHost fun h => { h with
    flash := s.host.flash
    ownFlash := s.host.ownFlash
    images := s.host.images
    storage := s.host.storage
    keysDerived := past 1
    rootPort := if past 3 then rootPort else h.rootPort
    failedStep := failedStep }
  .next (if past 4 then failedBanks.foldl (fun r b => r.selfTest b.1.toNat b.2.toNat) r else r)

end Sys2Proof.Machine
end

