-- ==== Sys2Proof/Machine/HostSide.lean ====
section
/-! DEFINITION. Accesses of the host cores through the host physical map (R118, R119, R275, R277), and of PCIe virtual functions
(R276). -/

namespace Sys2Proof.Machine
open Sys2Proof

/-! ### The host physical map (R275) -/

/-- What a byte address of the map names. -/
inductive MapSpot
  | memory
  /-- Reads as zero, writes are ignored. -/
  | gap
  | window (off : Nat)
  | hole
deriving DecidableEq, Repr

/-- The map. -/
def mapSpot (a : Nat) : MapSpot :=
  if isDram a || isSlice a || isNsm a then .memory
  else if 0x40000000000 ≤ a && a < 0x40000000000 + 512 * 0x400000 then .gap
  else if 0x60000000000 ≤ a && a < 0x60000000000 + 5 * 0x10000000 then .window (a - 0x60000000000)
  else .hole

/-- The bytes of an access. -/
def spanOf (a n : Nat) : List Nat := (List.range n).map (a + ·)

/-- An access that a hole, or a control window other than whole and aligned, refuses (R104, DEDUCED, log 30). -/
def mapRefuses (a n : Nat) : Bool :=
  (spanOf a n).any fun x => match mapSpot x with
    | .hole => true
    | .window _ => !(n == 8 && a % 8 == 0)
    | _ => false

/-- The cells of a store that reach memory. -/
def mapCells (a : Nat) (b : List Byte) : List (Nat × Byte × Byte) := (cellsAt a b).filter fun c => mapSpot c.1 == .memory

/-- Answer a host-side access. -/
def State.hostAnswer (s : State) (a : HostAns) : Host.Outcome State Fault Refusal := .next (s.modHost fun h => { h with answer := a })

/-- A load of `n` bytes (R119). -/
def State.hostLoad (s : State) (a n : Nat) : Host.Outcome State Fault Refusal :=
  if mapRefuses a n then s.hostAnswer .abort
  else
    match mapSpot a with
    | .window off => s.hostAnswer (.value (s.windowRead off))
    | _ =>
      let (s, bad) := s.sense a n
      if bad then s.hostAnswer .abort
      else s.hostAnswer (.value (BitVec.ofNat 64 (ofBytes ((spanOf a n).map fun x => if mapSpot x == .memory then BitVec.ofNat 8 (s.home x 1) else 0))))

/-- A store (R119, R279). -/
def State.hostStore (s : State) (w : By) (a : Nat) (b : List Byte) : Host.Outcome State Fault Refusal :=
  if mapRefuses a b.length then s.hostAnswer .abort
  else
    match mapSpot a with
    | .window off => (s.windowWrite w off (BitVec.ofNat 64 (ofBytes b))).hostAnswer .done
    | _ => (s.cellsNow w (mapCells a b)).hostAnswer .done

/-- A read-modify-write at the system point; in the windows only OWNER takes one (R118, R277, DEDUCED, log 49). -/
def State.hostRmw (s : State) (w : By) (r : Rmw) (a n : Nat) : Host.Outcome State Fault Refusal :=
  if a % n != 0 || mapRefuses a n then s.hostAnswer .abort
  else
    match mapSpot a with
    | .window off =>
      if off == ownerOff then
        match r with
        | .cas e v => (s.ownerSwap e v).1.hostAnswer (.value (s.ownerSwap e v).2)
        | .amo .. => (s.modHost fun h => { h with owner := BitVec.ofNat 64 (r.new 8 h.owner.toNat) }).hostAnswer (.value s.host.owner)
      else s.refuse.hostAnswer .abort
    | .gap => s.hostAnswer (.value 0)
    | _ =>
      let (s, bad) := s.sense a n
      if bad then s.hostAnswer .abort
      else
        let old := s.home a n
        let s1 := (s.rmw w r a n).1
        (s.settle s1 (cellsAt a (toBytes n (r.new n old)))).hostAnswer (.value (BitVec.ofNat 64 old))

/-! ### PCIe virtual functions (R276) -/

/-- How a function's access fails: Unsupported Request, Completer Abort, or a RETRY of a home (R139). -/
inductive VfBad | unbound | refused | again
deriving DecidableEq, Repr

/-- The places of `n` bytes at an offset of a function's window, by granule, with the offset of each in the access. -/
def State.vfPlaces (s : State) (g : Agent) (use : Use) (va : Nat) : List (Nat × Nat) → State × Except VfBad (List (Nat × Nat × Nat × Option Leaf))
  | [] => (s, .ok [])
  | (o, n) :: r =>
    if spaceOf (va + o) != .paged then (s, .error .refused)
    else
      match s.targetPlace g false (va + o) n use with
      | (s, .ok (.mem pa (some l))) =>
        match s.homeAnswer pa l.gen false with
        | .stale => (s, .error .refused)
        | .apply =>
          match s.vfPlaces g use va r with
          | (s, .ok t) => (s, .ok ((o, n, pa, some l) :: t))
          | e => e
        | _ => (s, .error .again)
      | (s, _) => (s, .error .refused)

/-- The window of a function: its context's agent with PRIV = 0, and the address of an offset. -/
def State.vfWindow (s : State) (vf : BitVec 8) (off : BitVec 26) : Option (Agent × Nat) :=
  let w := Assoc.get 0 vf.toNat s.host.vfmap
  let ctx := BitVec.ofNat 16 (fld w 63 48)
  if s.host.rootPort || ctx == 0xFFFF || !s.ctxValid ctx then none
  else
    let g := s.targetAgent ctx
    some ({ g with who := { g.who with priv := false } }, fld w 47 0 + off.toNat)

/-- An access of a function; a RETRY is sent again after 64 tc (R139). -/
def State.vfAccess (s : State) (r : HostReq) (vf : BitVec 8) (off : BitVec 26) (n : Nat) (use : Use)
    (k : State → List (Nat × Nat × Nat × Option Leaf) → Host.Outcome State Fault Refusal) : Host.Outcome State Fault Refusal :=
  match s.vfWindow vf off with
  | none => s.hostAnswer .unsupported
  | some (g, va) =>
    match s.vfPlaces g use va (granules va n) with
    | (s, .ok l) => k s l
    | (s, .error .unbound) => s.hostAnswer .unsupported
    | (s, .error .refused) => s.hostAnswer .abort
    | (s, .error .again) => .next { s with inputs := insertBy (fun a b => decide (a.1 < b.1)) (s.now + 64, .hostAccess r) s.inputs }

/-- Read the places of an access; nothing where an error is consumed. -/
def State.vfRead (s : State) : List (Nat × Nat × Nat × Option Leaf) → State × Option (List Byte)
  | [] => (s, some [])
  | (_, n, pa, _) :: r =>
    match s.sense pa n with
    | (s, true) => (s, none)
    | (s, false) =>
      match s.vfRead r with
      | (s1, some b) => (s1, some (toBytes n (s.home pa n) ++ b))
      | e => e

/-- A read-modify-write of a function, at the place that the page gives (R118, R131, R276). -/
def State.vfRmw (s : State) (r : HostReq) (vf : BitVec 8) (off : BitVec 26) (n : Nat) (op : Rmw) : Host.Outcome State Fault Refusal :=
  if off.toNat % n != 0 then s.hostAnswer .abort
  else
    s.vfAccess r vf off n .atomic fun s l =>
      match l with
      | [(_, _, pa, some lf)] =>
        if 2 ≤ lf.fmt then s.hostAnswer .abort
        else
          let (s, bad) := s.sense pa n
          if bad then s.hostAnswer .abort
          else
            let old := s.home pa n
            let s1 := (s.rmw ⟨0, 0⟩ op pa n).1
            (s.settle s1 (cellsAt pa (toBytes n (op.new n old)))).hostAnswer (.value (BitVec.ofNat 64 old))
      | _ => s.hostAnswer .abort

/-- The host cores and the management controller reach the map (R275, R279). -/
def hostSide : Writer → Bool
  | .host | .mc => true
  | _ => false

/-- An access by whoever may make it. -/
def State.byHost (s : State) (who : Writer) (k : Host.Outcome State Fault Refusal) : Host.Outcome State Fault Refusal :=
  if hostSide who then k else s.hostAnswer .unsupported

/-- HOST_ACCESS: one access of a host core, or of a PCIe function (R119, R275, R276). -/
def execHostAccess (r : HostReq) (s : State) : Host.Outcome State Fault Refusal :=
  match r with
  | .load who a sz => s.byHost who (s.hostLoad a.toNat sz.bytes)
  | .store who a sz v => s.byHost who (s.hostStore (s.byOf who) a.toNat (toBytes sz.bytes v.toNat))
  | .amo who a op dbl v => s.byHost who (s.hostRmw (s.byOf who) (.amo op v) a.toNat (if dbl then 8 else 4))
  | .cas who a dbl e v => s.byHost who (s.hostRmw (s.byOf who) (.cas e v) a.toNat (if dbl then 8 else 4))
  | .vfLoad vf off sz => s.vfAccess r vf off sz.bytes .rd fun s l =>
      match s.vfRead l with
      | (s, some b) => s.hostAnswer (.value (BitVec.ofNat 64 (ofBytes b)))
      | (s, none) => s.hostAnswer .abort
  | .vfStore vf off sz v => s.vfAccess r vf off sz.bytes .wr fun s l =>
      let b := toBytes sz.bytes v.toNat
      (s.cellsNow ⟨0, 0⟩ (l.flatMap fun x => cellsAt x.2.2.1 ((b.drop x.1).take x.2.1))).hostAnswer .done
  | .vfAdd vf off dbl v => s.vfRmw r vf off (if dbl then 8 else 4) (.amo .add v)
  | .vfSwap vf off dbl v => s.vfRmw r vf off (if dbl then 8 else 4) (.amo .swap v)
  | .vfCas vf off e v => s.vfRmw r vf off 8 (.cas e v)

end Sys2Proof.Machine
end

