-- ==== Sys2Proof/Machine/Glaze.lean ====
section
/-! DEFINITION. The Glaze engine: SEAL and UNSEAL of regions, and the quorum of peers (R283 to R293, R369, R370).  An image is held in
structured form, with its ciphertext as free words (DESIGN CHOICE, log 11). -/

namespace Sys2Proof.Machine
open Sys2Proof

/-! ### Addresses of the engine -/

/-- A 64-bit read at a global address by an agent of a context (R103, R423). -/
def glzRead (g : Agent) (ga : Word) : M (Except Byte Word) := do
  let s ← get
  let la := fld ga 51 0
  match s.device g.who.ctx (fld ga 63 52) with
  | none => return .error causeRouteBad
  | some .here => ask fun s => s.agentRead g la
  | some (.there p c k) =>
    match s.pulled.find? fun x => x.ctx == g.who.ctx && x.va == ga.toNat with
    | some x =>
      modify fun s => { s with pulled := mapIf (fun y => y.ctx == x.ctx && y.va == x.va) (fun y => { y with used := true }) s.pulled }
      return if x.cause == 0 then .ok x.word else .error x.cause
    | none =>
      let q : Request := ⟨kLoad, ga, p, c, k, la, none, 3, 0, 0, []⟩
      modify fun s => { s with needs := s.needs ++ [(g.who.ctx, ga.toNat, q)] }
      return .error causeRouteDown

/-- `n` words at a global address. -/
def glzReads (g : Agent) (ga : Word) : Nat → M (Except Byte (List Word))
  | 0 => return .ok []
  | n + 1 => do
    match ← glzRead g ga with
    | .error c => return .error c
    | .ok w =>
      match ← glzReads g (ga + 8) n with
      | .error c => return .error c
      | .ok l => return .ok (w :: l)

/-- Why a 64-bit write at a global address would fail; none where it is made. -/
def glzRefuses (g : Agent) (ga : Word) : M (Option Byte) := do
  match (← get).device g.who.ctx (fld ga 63 52) with
  | none => return some causeRouteBad
  | some (.there ..) => return none
  | some .here =>
    match ← ask fun s => s.agentSpot g (fld ga 51 0) true with
    | .ok _ => return none
    | .error c => return some c

/-- A 64-bit write at a global address. -/
def glzWrite (g : Agent) (ga v : Word) : M Unit := do
  let s ← get
  match s.device g.who.ctx (fld ga 63 52) with
  | none => pure ()
  | some .here => let _ ← ask fun s => s.agentWrite g (fld ga 51 0) v
  | some (.there p c k) =>
    let q : Request := ⟨kStore, ga, p, c, k, fld ga 51 0, none, 3, 0, 0, toBytes 8 v.toNat⟩
    modify fun s => { s with posts := s.posts ++ [q] }

/-- The address of word `k` from an address on. -/
def wordAt (ga : Word) (k : Nat) : Word := ga + BitVec.ofNat 64 (8 * k)

/-! ### Tenants (R283) -/

/-- The record of a context's tenant. -/
def State.tenant (s : State) (ctx : BitVec 16) : Nat := s.host.tenbase.toNat + ctx.toNat * 128
/-- MEAS, CTRV, QVALID, TENANTID. -/
def State.meas (s : State) (ctx : BitVec 16) : List Byte := (List.range 48).map fun i => BitVec.ofNat 8 (s.home (s.tenant ctx + i) 1)
def State.ctrv (s : State) (ctx : BitVec 16) : Word := s.home64 (s.tenant ctx + 0x30)
def State.qvalid (s : State) (ctx : BitVec 16) : Bool := bitAt (s.home64 (s.tenant ctx + 0x38)) 63
def State.tenantId (s : State) (ctx : BitVec 16) : Word := s.home64 (s.tenant ctx + 0x40)
/-- QDEV: the device-table indices of the peers, and whether peer `p` can be reached through its entry (R259, R283). -/
def State.qdev (s : State) (ctx : BitVec 16) : List (BitVec 12) :=
  (List.range 5).map fun i => BitVec.ofNat 12 (fld (s.home64 (s.tenant ctx + 0x38)) (12 * i + 11) (12 * i))
def State.qpeer (s : State) (ctx : BitVec 16) (p : BitVec 3) : Bool :=
  match (s.qdev ctx)[p.toNat]? with
  | some i => (s.device ctx i.toNat).isSome
  | none => false
/-- The quorum has confirmed a counter and a tag to this device: CTRV, and its own flash (R283, R284). -/
def State.confirm (s : State) (ctx : BitVec 16) (c nb : Word) : State :=
  (s.homeWrite64 (s.tenant ctx + 0x30) c).modHost fun h => { h with ownFlash := Assoc.set (0, 0) (s.tenantId ctx).toNat (c, nb) h.ownFlash }

/-! ### The subtree of a region (R291) -/

/-- A region and its descendants that are not FREE, itself first, then by number. -/
def subtree (g : Agent) (r : Nat) : M (List Nat) := do
  let a ← regionsIn g 1
  let b ← regionsIn g 2
  let c ← regionsIn g 3
  let l := (a ++ b ++ c).foldl (fun l x => insertNat x l) []
  let l ← l.filterM fun x => return x != r && (← under g r x)
  return r :: l

/-- An entry of a subtree. -/
def Entry.within (e : Entry) (ctx : BitVec 16) (l : List Nat) : Bool := e.ctx == ctx && l.contains e.blk.region.toNat

/-- Every queued entry of a die, in a Chorus class or not. -/
def Die.allEntries (x : Die) : List Entry :=
  x.heap ++ x.moves.map (·.2) ++ x.buckets.flatMap (·.2) ++ x.chIn ++ x.ch.toList.flatMap fun c => c.collecting ++ c.closing ++ c.backlog

/-! ### The image (R291) -/

/-- The bytes of memory from an address of the map. -/
def State.bytesAt (s : State) (a n : Nat) : List Byte := (List.range n).map fun i => BitVec.ofNat 8 (s.home (a + i) 1)

/-- Section 2: the descriptor of a queue with its ring slots from DONEIDX on. -/
def sealQueue (g : Agent) (q : Nat) : M (List (BitVec 16 × List Byte)) := do
  let qb := (← get).ctxWord g.who.ctx 4
  match ← ask fun s => s.agentReads g (qdAddr qb q 0) 8, ← goodDesc g qb q with
  | .ok w, some x => do
    let slots ← (List.range (min x.size (x.wr - x.done))).mapM fun i => do
      match ← ask fun s => s.agentReads g (x.slot (x.done + i)) 8 with
      | .ok l => return l
      | .error _ => return List.replicate 8 0
    return [(BitVec.ofNat 16 q, (w ++ slots.flatten).flatMap fun y => toBytes 8 y.toNat)]
  | _, _ => return []

/-- Section 7: one page, by its leaf. -/
def sealPage (g : Agent) (va : Nat) : M (Except Byte SealPage) := do
  match ← ask fun s => s.walk g.die (s.partCount g.part) g.who.root va with
  | .leaf w0 w1 lvl _ =>
    let l : Leaf := ⟨w0, w1, lvl == 1⟩
    if l.rdev != 0xFFF then return .error causePagePerm
    else
      let s ← get
      let pa := l.pa va / 0x10000 * 0x10000
      let (s, bad) := s.sense pa 0x10000
      set s
      if bad then return .error causePoisonData
      else return .ok ⟨BitVec.ofNat 36 (va / 0x10000), w0, w1, s.bytesAt (s.frameRec pa) 32, s.bytesAt pa 0x10000⟩
  | .absent .. => return .error causePageAbsent
  | .fault c => return .error c

/-- The pages that section 7 names: those of the KV frames that the subtree owns, then those of PLIST. -/
def sealPages (g : Agent) (l : List Nat) (plist : Word) (count : Nat) : M (Except Byte (List Nat)) := do
  let s ← get
  let kv := (List.range 4).flatMap fun d =>
    let x := s.die d
    (List.range x.kvframes.toNat).filterMap fun i =>
      let a := s.frameRec ((x.kvarena.toNat + i) * 0x10000)
      let w1 := s.home64 (a + 8)
      if fld (s.home64 a) 63 32 != 0 && fld w1 63 48 == g.who.ctx.toNat && l.contains (fld (s.home64 (a + 16)) 31 0) then
        some (fld w1 35 0 * 0x10000) else none
  if plist == 0 then return .ok kv
  else
    match ← glzReads g plist (2 * count) with
    | .error c => return .error c
    | .ok w =>
      let more := (List.range count).flatMap fun i =>
        (List.range (w.getD (2 * i + 1) 0).toNat).map fun k => fld (w.getD (2 * i) 0) 51 16 * 0x10000 + k * 0x10000
      return .ok (more.foldl (fun a v => if a.contains v then a else a ++ [v]) kv)

/-- The image of a subtree as it stands (R291). -/
def takeImage (g : Agent) (r : Nat) (c nb plist : Word) (count : Nat) : M (Except Byte SealImage) := do
  let ctx := g.who.ctx
  let l ← subtree g r
  let rcbs ← l.mapM fun x => do
    match ← ask fun s => s.agentReads g (rcbAddr g x 0) 32 with
    | .ok w => return (BitVec.ofNat 32 x, w.flatMap fun y => toBytes 8 y.toNat)
    | .error _ => return (BitVec.ofNat 32 x, List.replicate 256 (0 : Byte))
  let roots := rcbs.filterMap fun x => if ofBytes (x.2.take 4) == 0xFFFFFFFF then some (ofBytes ((x.2.drop 4).take 2)) else none
  let queues ← roots.mapM fun q => sealQueue g q
  let s ← get
  let mine := fun (e : Entry) => e.within ctx l
  let queued := ((s.dies.toList.flatMap Die.allEntries).filter mine).map fun e => (e, (none : Option (BitVec 36)))
  let parked := ((s.dies.toList.flatMap (·.parked)).filter fun p => mine p.entry).map fun p => (p.entry, some p.page)
  let owned := s.pinned.filter fun p => p.1 == ctx && l.contains p.2.1.toNat
  let pinLists ← owned.mapM fun p => pins g p.2.1.toNat
  let s ← get
  let pinned := pinLists.flatten.filterMap fun (p : Pin) =>
    (s.coordTile g.part p.coord).map fun t => (p.coord, p.off, s.bytesAt (sliceBase t + p.off) p.len)
  let nodes := (s.nodes.filter fun n => n.2.ctx == ctx && l.contains n.2.region.toNat).map fun n =>
    (n.1, n.2.region, s.bytesAt (nodeBase n.1) 32)
  match ← sealPages g l plist count with
  | .error e => return .error e
  | .ok vas => do
    let pages ← vas.mapM fun va => sealPage g va
    match pages.findSome? fun p => match p with | .error e => some e | .ok _ => none with
    | some e => return .error e
    | none =>
      let s ← get
      return .ok { tenant := s.tenantId ctx, meas := s.meas ctx, c := c, nb := nb, dev := s.host.devid, region := BitVec.ofNat 32 r
                   rcbs := rcbs, queues := queues.flatten, entries := sortBy (fun a b => seqBefore a.1.seq b.1.seq) (queued ++ parked), pinned := pinned, nodes := nodes
                   pages := pages.filterMap fun p => match p with | .ok x => some x | .error _ => none }

/-- Bytes of plaintext, an entry counted as its block. -/
def SealImage.plain (x : SealImage) : Nat :=
  256 * x.rcbs.length + (x.queues.map fun q => q.2.length).sum + 64 * x.entries.length
    + (x.pinned.map fun p => p.2.2.length).sum + 32 * x.nodes.length + 65568 * x.pages.length

/-! ### Requests (R288 to R290) -/

/-- Whether the request of a tile is still the one that its boundary word waits for (R370). -/
def Glaze.waited (z : Glaze) (s : State) (t : Nat) : Bool :=
  match (s.tileAt t).bnd with
  | some b => b.begun && b.req == some z.id && (match b.op with | .seal .. | .unseal .. => true | _ => false)
  | none => false

/-- Change a request. -/
def modGlaze (id : Nat) (f : Glaze → Glaze) : M Unit :=
  modify fun s => s.modHost fun h => { h with glaze := mapIf (fun z => z.id == id) f h.glaze }

/-- A request leaves the engine. -/
def dropGlaze (id : Nat) : M Unit := modify fun s => s.modHost fun h => { h with glaze := h.glaze.filter fun z => z.id != id }

/-- A request ends with a status (R287 to R289). -/
def endGlaze (z : Glaze) (st : Byte) : M Unit := do
  match z.by_ with
  | .tile t d =>
    dropGlaze z.id
    modify fun s => if z.waited s t then s.finishBnd t (some (d, zext64 st)) else s
  | .packet r =>
    let s ← get
    completePacket (s.queueAgent r.ctx) (s.ctxWord r.ctx 4) r.q.toNat r.idx st
    dropGlaze z.id

/-- A request of a tile ends with a trap, one of a packet with a status (R289). -/
def faultGlaze (z : Glaze) (cause st : Byte) : M Unit := do
  match z.by_ with
  | .tile t _ =>
    dropGlaze z.id
    modify fun s => if z.waited s t then s.bndFault t cause z.desc else s
  | .packet _ => endGlaze z st

/-- The agent that serves a request. -/
def Glaze.agent (z : Glaze) (s : State) : Agent := s.queueAgent z.ctx

/-- The descriptor (R286, R369). -/
def glzDesc (z : Glaze) : M (Except Byte (List Word)) := do
  let s ← get
  match s.device z.ctx (fld z.desc 63 52) with
  | some .here => if z.desc.toNat % 64 != 0 then return .error causeMisalign else ask fun s => s.agentReads (z.agent s) (fld z.desc 51 0) 8
  | some (.there ..) => return .error causePagePerm
  | none => return .error causeRouteBad

/-- Whether a descriptor is refused: a RES0 field, DKIND 2 or 3, or storage where no root port is (R276, R369). -/
def descRefused (s : State) (w : List Word) : Bool :=
  let x := fun k => w.getD k 0
  fld (x 1) 61 32 != 0 || fld (x 5) 31 0 != 0 || x 7 != 0 || 2 ≤ fld (x 1) 63 62 || fld (x 1) 63 62 == 1 && !s.host.rootPort

/-- The peers are asked: the request goes to each with the attestation report of this module (R292, R298). -/
def askPeers (z : Glaze) (st : GlzStage) : M Unit := do
  let s ← get
  let c := s.host.cyc.toNat
  modify State.tick
  modGlaze z.id fun z => { z with
    stage := st, since := c, answers := []
    ask := some ⟨s.qdev z.ctx, s.tenantId z.ctx, z.c, z.nb, s.host.devid, Config.certificate, s.meas z.ctx, Config.nonce s.free, s.host.keysDerived⟩ }

/-- A storage address. -/
def storeKey (w : List Word) : Nat := fld (w.getD 1 0) 31 0 * 2 ^ 64 + (w.getD 0 0).toNat

/-- Whether words of memory are those of an image from its first word on. -/
def isImage (nb : Word) (l : List Word) : Bool := l == (List.range l.length).map fun k => Config.imageWord nb k

/-- The image with its length in words that a descriptor names by a header, or the cause for which the header cannot be read. -/
def findImage (g : Agent) (w : List Word) : M (Except Byte (Option (Nat × SealImage))) := do
  let h := (← get).host
  if fld (w.getD 1 0) 63 62 == 1 then
    match h.storage.find? fun x => x.1 == storeKey w with
    | some (_, nb) => return .ok ((h.images.find? fun x => x.1 == nb.toNat).map (·.2))
    | none => return .ok none
  else
    match ← glzReads g (w.getD 0 0) Config.headerWords.toNat with
    | .error c => return .error c
    | .ok l => return .ok ((h.images.find? fun x => isImage x.2.2.nb l).map (·.2))

/-- Whether every record of an image passes its tag, or the cause for which it cannot be read (R292). -/
def recordsGood (g : Agent) (w : List Word) (n : Nat) (nb : Word) : M (Except Byte Bool) := do
  if fld (w.getD 1 0) 63 62 == 1 then return .ok true
  else
    match ← glzReads g (w.getD 0 0) n with
    | .error c => return .error c
    | .ok l => return .ok (isImage nb l)

/-! ### SEAL (R290) -/

/-- The tasks of a subtree that run, by tile. -/
def State.runners (s : State) (ctx : BitVec 16) (l : List Nat) : List Nat :=
  s.tiles.filter fun t => match (s.tileAt t).task with | some k => k.ctx == ctx && l.contains k.blk.region.toNat | none => false

/-- The first move of a SEAL: its checks, then the peers are asked. -/
def sealBegin (z : Glaze) : M Unit := do
  match ← glzDesc z with
  | .error c => faultGlaze z c (statusOf c)
  | .ok w => do
    let s ← get
    let g := z.agent s
    let own ← match z.by_ with
      | .tile t _ => match (s.tileAt t).task with
        | some k => under g z.region.toNat k.blk.region.toNat
        | none => pure false
      | .packet _ => pure false
    if descRefused s w then endGlaze z 0x2B
    else if !s.qvalid z.ctx then endGlaze z 0x2A
    else if own then endGlaze z 0x28
    else askPeers z .asking

/-- The peers have answered: a counter and a nonce are taken, dispatch into the subtree is held, and its running tasks are asked to
yield (R236, R290). -/
def sealHold (z : Glaze) : M Unit := do
  if z.answers.length < 3 then endGlaze z 0x21
  else
    let s ← get
    let top := z.answers.foldl (fun (m : Nat) a => max m a.2.1.toNat) (s.ctrv z.ctx).toNat
    let nb := Config.nonce s.free
    let l ← subtree (z.agent s) z.region.toNat
    modify fun s => (s.runners z.ctx l).foldl (fun s t =>
      s.modTile t fun x => { x with preq := some (x.preq.getD (s.die (dieOf t)).cyc.toNat) }) s.tick
    modGlaze z.id fun z => { z with stage := .holding, c := BitVec.ofNat 64 (top + 1), nb := nb }

/-- Whether the subtree is quiet: no task runs, and what its tasks sent has had its effect (R122, R290). -/
def State.subtreeQuiet (s : State) (g : Agent) (l : List Nat) : Bool :=
  (s.runners g.who.ctx l).isEmpty
    && s.far.all (fun f => !(f.who.ctx == g.who.ctx && l.contains f.who.region.toNat))
    && s.wb.all (fun w => !(w.ctx == g.who.ctx && l.contains w.region.toNat))
    && (s.partTiles g.part).all fun t => (s.tileAt t).task.isSome || (s.tileAt t).remote.isEmpty && (s.tileAt t).unsent.isEmpty

/-- The snapshot point: the image is taken and streamed, the hold ends, and the peers are asked to raise (R290). -/
def sealSnap (z : Glaze) : M Unit := do
  let s ← get
  let g := z.agent s
  let r := z.region.toNat
  let l ← subtree g r
  if s.subtreeQuiet g l then
    if (← rcbState g r) != some 1 then endGlaze z 0x29
    else
      match ← glzDesc z with
      | .error c => faultGlaze z c (statusOf c)
      | .ok w => do
        match ← takeImage g r z.c z.nb (w.getD 4 0) (fld (w.getD 5 0) 63 32) with
        | .error c => endGlaze z (statusOf c)
        | .ok x => do
          let n := (Config.imageWords z.nb x.plain).toNat
          if (w.getD 2 0).toNat < 8 * n then endGlaze z 0x20
          else
            let keep := modify fun (s : State) => s.modHost fun h => { h with images := Assoc.put z.nb.toNat (n, x) h.images }
            if fld (w.getD 1 0) 63 62 == 1 then
              keep
              modify fun s => s.modHost fun h => { h with storage := Assoc.put (storeKey w) z.nb h.storage }
              askPeers z .raising
            else
              let area := (List.range n).map fun k => wordAt (w.getD 0 0) k
              match ← area.findSomeM? fun a => glzRefuses g a with
              | some c => endGlaze z (statusOf c)
              | none =>
                keep
                (List.range n).forM fun k => glzWrite g (wordAt (w.getD 0 0) k) (Config.imageWord z.nb k)
                askPeers z .raising

/-- The peers have answered the raise: with three confirmations the image is the tenant's (R290). -/
def sealEnd (z : Glaze) : M Unit := do
  if (z.answers.filter fun a => a.2.1 == z.c && a.2.2.1 == z.nb).length < 3 then endGlaze z 0x21
  else
    let s ← get
    let g := z.agent s
    modify fun s => s.confirm z.ctx z.c z.nb
    let n := ((s.host.images.find? fun x => x.1 == z.nb.toNat).map fun x => x.2.1).getD 0
    glzWrite g (wordAt z.desc 3) (BitVec.ofNat 64 (8 * n))
    glzWrite g (wordAt z.desc 6) z.c
    endGlaze z 0x00

/-! ### UNSEAL (R292, R293) -/

/-- The first move of an UNSEAL: the header is read, with CTR the counter that it must carry, and the peers are asked (R286, R292, DEDUCED, log 117). -/
def unsealBegin (z : Glaze) : M Unit := do
  match ← glzDesc z with
  | .error c => faultGlaze z c (statusOf c)
  | .ok w => do
    let s ← get
    if descRefused s w then endGlaze z 0x2B
    else
      match ← findImage (z.agent s) w with
      | .error c => endGlaze z (statusOf c)
      | .ok none => endGlaze z 0x25
      | .ok (some (_, x)) =>
        if x.c != w.getD 6 0 then endGlaze z 0x25
        else if x.meas != s.meas z.ctx then endGlaze z 0x24
        else do
          modGlaze z.id fun z => { z with c := x.c, nb := x.nb, image := some x.nb }
          askPeers z .asking

/-- Whether the chain of parents of a region, whatever their states, reaches `t` before it ends or loops. -/
def leadsTo (g : Agent) (t : Nat) : Nat → List Nat → Nat → M Bool
  | 0, _, _ => return false
  | k + 1, seen, r => do
    match ← rcbWord g r 0 with
    | .error _ => return false
    | .ok w =>
      if fld w 31 0 == 0xFFFFFFFF || seen.contains r then return false
      else if fld w 31 0 == t then return true
      else leadsTo g t k (r :: seen) (fld w 31 0)

/-- The FREE regions below a target, by number (DEDUCED, log 31). -/
def freeBelow (g : Agent) (t : Nat) : M (List Nat) := do
  let s ← get
  let b := g.who.rgnbase.toNat
  let l := (s.findBytes g b (b + 2 ^ 40) fun _ _ => true).map fun va => (va - b) / 256
  let l := l.foldl (fun a x => insertNat x a) []
  l.filterM fun r => do
    if r == t || (← rcbState g r) != some 0 then return false else leadsTo g t (2 ^ 32) [] r

/-- Where a region id of an image maps (R293). -/
def mapRegion (m : List (Nat × Nat)) (r : BitVec 32) : BitVec 32 :=
  match m.find? fun x => x.1 == r.toNat with | some x => BitVec.ofNat 32 x.2 | none => r

/-- The level-0 entry of a page that is not mapped, in its table (R125, R293). -/
def emptyEntry (s : State) (va : Nat) : Nat → Nat → Option Nat
  | 0, _ => none
  | k + 1, blk =>
    let a := blk + walkIndex k va * 16
    match fld (s.home64 a) 1 0 with
    | 0 => if k == 0 then some a else none
    | 1 => if k == 0 then none else emptyEntry s va k (fld (s.home64 a) 43 13 * 2 ^ 13)
    | _ => none

/-- The level-0 entry of a page that is not mapped. -/
def freeLeaf (g : Agent) (va : Nat) : M (Option Nat) := do
  return emptyEntry (← get) va 5 (fld g.who.root 43 13 * 2 ^ 13)

/-- STATE of the parent of a target that is FREE, 1 for a root. -/
def parentState (g : Agent) (t : Nat) : M (Option Nat) := do
  match ← rcbWord g t 0 with
  | .error _ => return none
  | .ok w =>
    if fld w 63 56 != 0 then return none
    else if fld w 31 0 == 0xFFFFFFFF then return some 1
    else rcbState g (fld w 31 0)

/-- Whether a target refuses an image (R293); the map of its regions where it does not. -/
def targetMap (g : Agent) (t : Nat) (x : SealImage) : M (Option (List (Nat × Nat))) := do
  let below ← freeBelow g t
  let s ← get
  let ids := x.rcbs.map fun r => r.1.toNat
  let par ← parentState g t
  let parentOk := par == some 1
  let bound := (x.entries.map fun e => e.1.blk.coord) ++ x.pinned.map fun p => p.1
  let fits := bound.all fun c => c == 0xFFFF || (s.coordTile g.part (s.rebound g.part c)).isSome
  let nodesFree := x.nodes.all fun n => (s.nodeTag n.1).isNone
  let vasFree ← x.pages.allM fun p => do return (← freeLeaf g (p.vpn.toNat * 0x10000)).isSome
  let owners ← pinOwners g.part
  let clear ← x.pinned.allM fun p => do
    let l ← pinsAt owners (s.rebound g.part p.1)
    return !l.any fun q => let (lo, hi) := pinSpan q.2.2.2; lo < p.2.1 + p.2.2.length && p.2.1 < hi
  if parentOk && fits && nodesFree && vasFree && clear && ids.length ≤ below.length + 1 && x.pages.length ≤ (s.die g.die).kvpoolcnt.toNat then
    return some (ids.zip (t :: below))
  else return none

/-- Install one page with a fresh frame (R293). -/
def putPage (g : Agent) (m : List (Nat × Nat)) (p : SealPage) : M Unit := do
  let va := p.vpn.toNat * 0x10000
  match ← freeLeaf g va, ← popKv g.die with
  | some a, some f => do
    let w0 := setFld p.w0 43 16 (f / 0x10000)
    let b := toBytes 8 w0.toNat ++ toBytes 8 p.w1.toNat
    modify fun s => (s.homeWrite a b).homeWrite (a + 0x1000) b
    modify fun s => s.homeWrite f p.bytes
    let owner := BitVec.ofNat 32 (ofBytes ((p.record.drop 16).take 4))
    let r := mapRegion m owner
    modify fun s => s.homeWrite (s.frameRec f) (p.record.take 14 ++ toBytes 2 g.who.ctx.toNat ++ toBytes 4 r.toNat ++ p.record.drop 20)
    if bitAt p.w1 53 then bill g .kv r.toNat 1
  | _, _ => pure ()

/-- Install an RCB with nothing in use yet: the target is ACTIVE and keeps its own PARENT, a descendant keeps its sealed STATE and its
PARENT maps (R292, R293). -/
def putRcb (g : Agent) (m : List (Nat × Nat)) (t : Nat) (x : BitVec 32 × List Byte) : M Unit := do
  let r := (mapRegion m x.1).toNat
  let par ← if r == t then do
      match ← rcbWord g t 0 with
      | .ok w => pure (fld w 31 0)
      | .error _ => pure 0xFFFFFFFF
    else pure (mapRegion m (BitVec.ofNat 32 (ofBytes (x.2.take 4)))).toNat
  (List.range 32).forM fun k => do
    let s ← get
    let w := BitVec.ofNat 64 (ofBytes ((x.2.drop (8 * k)).take 8))
    let w := if k == 0 then setFld (if r == t then setFld w 63 56 1 else w) 31 0 par
      else if k == 6 || k == 7 || k == 8 then 0
      else if 16 ≤ k && k < 24 then setFld w 63 48 (s.rebound g.part (BitVec.ofNat 16 (fld w 63 48))).toNat
      else w
    orUnpinned g r (rcbPut g r k w)

/-- An entry as it is restored: its region maps, its coordinate is rebound, no list buffer is its own (R293). -/
def Entry.restored (e : Entry) (m : List (Nat × Nat)) (s : State) (part : Nat) : Entry :=
  let e := s.rebind part e
  { e with blk := { e.blk with region := mapRegion m e.blk.region }, moving := none, buffer := none }

/-- Install a queue: packets not completed are read again. -/
def putQueue (g : Agent) (q : BitVec 16 × List Byte) : M Unit := do
  let qb := (← get).ctxWord g.who.ctx 4
  let w := fun (k : Nat) => BitVec.ofNat 64 (ofBytes ((q.2.drop (8 * k)).take 8))
  (List.range 8).forM fun k => do
    let _ ← ask fun s => s.agentWrite g (qdAddr qb q.1.toNat k) (if k == 3 then w 4 else w k)
  match descOf ((List.range 8).map w) with
  | some d =>
    (List.range ((q.2.length - 64) / 64)).forM fun i =>
      (List.range 8).forM fun k => do
        let _ ← ask fun s => s.agentWrite g (d.slot (d.done + i) + 8 * k) (w (8 + 8 * i + k))
  | none => pure ()

/-- Install an image into a target: sections 1 to 7 (R292, R293). -/
def install (g : Agent) (t : Nat) (m : List (Nat × Nat)) (x : SealImage) : M Unit := do
  x.rcbs.forM fun r => putRcb g m t r
  x.pages.forM fun p => putPage g m p
  x.queues.forM fun q => putQueue g q
  x.nodes.forM fun n => do
    let r := mapRegion m n.2.1
    modify fun s => { (s.homeWrite (nodeBase n.1) n.2.2) with nodes := Assoc.put n.1 ⟨g.who.ctx, r⟩ s.nodes }
    bill g .nsm r.toNat 1
  x.pinned.forM fun p => do
    let s ← get
    match s.coordTile g.part (s.rebound g.part p.1) with
    | some u => set (s.homeWrite (sliceBase u + p.2.1) p.2.2)
    | none => pure ()
  x.rcbs.forM fun r => takePins g (mapRegion m r.1).toNat
  x.entries.forM fun p => do
    let s ← get
    let e := p.1.restored m s g.part
    let d := s.holdDie g.part e.blk.coord (s.headDie g.part)
    let q ← takeSeq d
    let e := { e with seq := q, enq := (s.die d).cyc.toNat }
    bill g .queue e.blk.region.toNat 1
    match p.2 with
    | some page =>
      modify fun s => { (s.modDie d fun y => { y with parked := y.parked ++ [⟨e, page, s.parkOrder⟩] }) with parkOrder := s.parkOrder + 1 }
    | none => if e.blk.bclass == 0 then heapArrive g d e else modify fun s => s.modDie d fun y => { y with chIn := y.chIn ++ [e] }
  x.rcbs.forM fun r => closeIfIdle g (mapRegion m r.1).toNat

/-- The peers have answered an UNSEAL (R292). -/
def unsealEnd (z : Glaze) : M Unit := do
  let a := z.answers
  let same := a.filter fun x => x.2.1 == z.c && x.2.2.1 == z.nb
  let past := a.filter fun x => decide (z.c < x.2.1) || x.2.1 == z.c && x.2.2.1 != z.nb
  if a.length < 3 then endGlaze z 0x21
  else if 3 ≤ past.length then faultGlaze z causeSealStale 0x23
  else if same.length < 3 then endGlaze z 0x22
  else if !(same.any fun x => x.2.2.2) then endGlaze z 0x26
  else
    match ← glzDesc z with
    | .error c => faultGlaze z c (statusOf c)
    | .ok w => do
      let g := z.agent (← get)
      match ← findImage g w with
      | .error c => endGlaze z (statusOf c)
      | .ok none => endGlaze z 0x25
      | .ok (some (n, x)) =>
        match ← recordsGood g w n x.nb with
        | .error c => endGlaze z (statusOf c)
        | .ok good =>
          if some x.nb != z.image || !good then endGlaze z 0x25
          else
            match ← targetMap g z.region.toNat x with
            | none => endGlaze z 0x27
            | some m => do
              install g z.region.toNat m x
              modify fun s => s.confirm z.ctx z.c z.nb
              endGlaze z 0x00

/-! ### The events -/

/-- The requests at the head of their tenants, four at most that have begun (R290). -/
def State.glazeHeads (s : State) : List Glaze :=
  let h := s.host.glaze.filter fun z => (s.host.glaze.find? fun y => y.ctx == z.ctx).any fun y => y.id == z.id
  let run := h.filter fun z => z.stage != .queued
  run ++ (h.filter fun z => z.stage == .queued).take (4 - run.length)

/-- Whether the answers of a request are all there, or the time for them is over. -/
def Glaze.heard (z : Glaze) : Bool :=
  match z.stage with
  | .asking | .raising => z.answers.length == 5
  | .asked | .raised => true
  | _ => false

/-- Whether a request may move. -/
def Glaze.ready (z : Glaze) : Bool := z.stage == .queued || z.stage == .holding || z.heard

/-- One move of a SEAL. -/
def sealMove (z : Glaze) : M Unit :=
  match z.stage with
  | .queued => sealBegin z
  | .asking | .asked => sealHold z
  | .holding => sealSnap z
  | .raising | .raised => sealEnd z

/-- One move of an UNSEAL. -/
def unsealMove (z : Glaze) : M Unit := if z.stage == .queued then unsealBegin z else unsealEnd z

/-- The first request of a list on which a move changes anything moves; one that waits for words of another device asks for them. -/
def State.firstMove (s : State) (f : Glaze → M Unit) : List Glaze → State
  | [] => s
  | z :: r =>
    let s1 := s.attempt fun s => (f z s).2
    if s1 == s then s.firstMove f r else s1

/-- SEAL_OPERATION: the Glaze engine moves a SEAL on (R290). -/
def execSealOperation (s : State) : Host.Outcome State Fault Refusal :=
  .next (s.firstMove sealMove (s.glazeHeads.filter fun z => !z.uns && z.ready))

/-- UNSEAL_OPERATION: the Glaze engine moves an UNSEAL on (R292). -/
def execUnsealOperation (s : State) : Host.Outcome State Fault Refusal :=
  .next (s.firstMove unsealMove (s.glazeHeads.filter fun z => z.uns && z.ready))

/-- A peer's answer reaches a request in its stage, once, within its time, from a peer that QDEV names (R283, R292). -/
def State.hear (s : State) (st : GlzStage) (id : Nat) (peer : BitVec 3) (c nb : Word) (key : Bool) : State :=
  s.modHost fun h => { h with glaze := mapIf (fun z => z.id == id && z.stage == st && decide (peer.toNat < 5) && !(z.answers.any fun a => a.1 == peer)
      && s.qpeer z.ctx peer && decide (h.cyc.toNat ≤ z.since + h.qtimeout.toNat)) (fun z => { z with answers := z.answers ++ [(peer, c, nb, key)] }) h.glaze }

/-- PEER_QUERY: as a peer, this module answers its counter and tag, with the key where they are the image's and the report holds; or
a peer's answer to a query arrives (R284, R292). -/
def execPeerQuery (m : PeerMsg) (s : State) : Host.Outcome State Fault Refusal :=
  match m with
  | .serve tenant c nb ok =>
    let p := Assoc.get (0, 0) tenant.toNat s.host.flash
    .next (s.modHost fun h => { h with peerAnswer := some (p.1, p.2, ok && p == (c, nb)) })
  | .answer id peer c nb key => .next (s.hear .asking id peer c nb key)

/-- PEER_COUNTER_RAISE: as a peer, this module raises its counter and tag or refuses; or a peer's answer to a raise arrives (R284,
R290). -/
def execPeerCounterRaise (m : PeerMsg) (s : State) : Host.Outcome State Fault Refusal :=
  match m with
  | .serve tenant c nb _ =>
    let p := Assoc.get (0, 0) tenant.toNat s.host.flash
    .next (s.modHost fun h =>
      if p.1 < c then { h with flash := Assoc.set (0, 0) tenant.toNat (c, nb) h.flash, peerAnswer := some (c, nb, true) }
      else { h with peerAnswer := some (p.1, p.2, false) })
  | .answer id peer c nb key => .next (s.hear .raising id peer c nb key)

/-- QUORUM_TIMEOUT: answers not received within QTIMEOUT count as none (R292). -/
def execQuorumTimeout (s : State) : Host.Outcome State Fault Refusal :=
  .next (s.modHost fun h => { h with glaze := h.glaze.map fun z =>
    if z.since + h.qtimeout.toNat ≤ h.cyc.toNat then
      match z.stage with
      | .asking => { z with stage := .asked }
      | .raising => { z with stage := .raised }
      | _ => z
    else z })

end Sys2Proof.Machine
end

