-- ==== Sys2Proof/Machine/Scalar.lean ====
section
/-! DEFINITION. The scalar words of the S engine: arithmetic, logic, shifts, selection, comparison, bit fields, moves and
immediates (R300, R304, R311, R312, R318, R331, R332, R335, R342, R347, R354, R356, R357, R368, R371, R376, R415). -/

namespace Sys2Proof.Machine
open Sys2Proof

/-- A word of S whose result lands in s[d] `lat` cycles after its last issue (R74, R300). -/
def scalarWord (h : Hdr) (d : SReg) (lat : Nat) (f : State → Word) (s : State) : Host.Outcome State Fault Refusal :=
  issue .S 1 h (fun s => .done (s.result h 1 lat (.sreg d (f s)) 0)) s

/-- A word of S whose result lands in p[n] one cycle after its last issue (R312, R342). -/
def predWord (h : Hdr) (n : PReg) (f : State → Bool) (s : State) : Host.Outcome State Fault Refusal :=
  issue .S 1 h (fun s => .done (s.result h 1 1 (.pred n (f s)) 0)) s

/-- imm29 sign-extended (R169). -/
def imm64 (i : BitVec 29) : Word := sext64 i

/-! ### The results -/

/-- Quotient truncated toward zero; all ones for a zero divisor (R318). -/
def divWord (u : Bool) (x y : Word) : Word :=
  if y == 0 then BitVec.allOnes 64 else if u then x / y else BitVec.ofInt 64 (x.toInt.tdiv y.toInt)

/-- Remainder with the sign of the dividend; the dividend for a zero divisor (R318). -/
def remWord (u : Bool) (x y : Word) : Word :=
  if y == 0 then x else if u then x % y else BitVec.ofInt 64 (x.toInt.tmod y.toInt)

/-- The high 64 bits of a product by kind: signed, unsigned, signed by unsigned (R347). -/
def mulhWord (k : MulhKind) (x y : Word) : Word :=
  let p : Int := match k with
    | .ss => x.toInt * y.toInt
    | .uu => (x.toNat : Int) * y.toNat
    | .su => x.toInt * y.toNat
  BitVec.ofInt 64 (p / (2 ^ 64 : Nat))

/-- Signed or unsigned minimum and maximum (R335). -/
def minWord (u : Bool) (x y : Word) : Word := if u then (if x < y then x else y) else (if x.slt y then x else y)
def maxWord (u : Bool) (x y : Word) : Word := if u then (if x < y then y else x) else (if x.slt y then y else x)

/-- A comparison (R312). -/
def condHolds (c : Cond) (x y : Word) : Bool :=
  match c with
  | .eq => x == y | .ne => x != y | .lt => x.slt y | .ge => !x.slt y | .ltu => x.ult y | .geu => !x.ult y

/-- Bits set in a word, from the bits below `k` (R357). -/
def popFrom (x : Word) : Nat → Nat
  | 0 => 0
  | k + 1 => (if x.getLsbD k then 1 else 0) + popFrom x k

/-- Zero bits above the highest set bit among the bits below `k` (R311). -/
def clzFrom (x : Word) : Nat → Nat
  | 0 => 0
  | k + 1 => if x.getLsbD k then 0 else 1 + clzFrom x k

/-- BFX: a field of `wid` bits from `lo`, extended (R304). -/
def bfxWord (x : Word) (lo wid : Nat) (sx : Bool) : Word :=
  let f := x.toNat / 2 ^ lo % 2 ^ wid
  if sx then BitVec.ofInt 64 (signedOf wid f) else BitVec.ofNat 64 f

/-- BFI: the field of x replaced by the low bits of y (R304). -/
def bfiWord (x y : Word) (lo wid : Nat) : Word :=
  BitVec.ofNat 64 (x.toNat - x.toNat / 2 ^ lo % 2 ^ wid * 2 ^ lo + y.toNat % 2 ^ wid * 2 ^ lo)

/-! ### The words -/

/-- NOP occupies S for one cycle (R165, R354). -/
def execNop (d : BitVec 10) (s : State) : Host.Outcome State Fault Refusal := issue .S 1 ⟨false, d, 0, false⟩ .done s

/-- ADD (R300). -/
def execAdd (h : Hdr) (d a b : SReg) (s : State) : Host.Outcome State Fault Refusal :=
  scalarWord h d 1 (fun s => s.sr a + s.sr b) s
/-- ADD with an immediate (R300). -/
def execAddImm (h : Hdr) (d a : SReg) (imm : BitVec 29) (s : State) : Host.Outcome State Fault Refusal :=
  scalarWord h d 1 (fun s => s.sr a + imm64 imm) s
/-- SUB (R376). -/
def execSub (h : Hdr) (d a b : SReg) (s : State) : Host.Outcome State Fault Refusal :=
  scalarWord h d 1 (fun s => s.sr a - s.sr b) s
/-- MUL (R347): the low 64 bits, 3 cycles. -/
def execMul (h : Hdr) (d a b : SReg) (s : State) : Host.Outcome State Fault Refusal :=
  scalarWord h d 3 (fun s => s.sr a * s.sr b) s
/-- MULH (R347): the high 64 bits, 3 cycles. -/
def execMulh (h : Hdr) (d a b : SReg) (k : MulhKind) (s : State) : Host.Outcome State Fault Refusal :=
  scalarWord h d 3 (fun s => mulhWord k (s.sr a) (s.sr b)) s
/-- DIV (R318), 20 cycles. -/
def execDiv (h : Hdr) (d a b : SReg) (u : Bool) (s : State) : Host.Outcome State Fault Refusal :=
  scalarWord h d 20 (fun s => divWord u (s.sr a) (s.sr b)) s
/-- REM (R318), 20 cycles. -/
def execRem (h : Hdr) (d a b : SReg) (u : Bool) (s : State) : Host.Outcome State Fault Refusal :=
  scalarWord h d 20 (fun s => remWord u (s.sr a) (s.sr b)) s
/-- AND (R300). -/
def execAnd (h : Hdr) (d a b : SReg) (s : State) : Host.Outcome State Fault Refusal :=
  scalarWord h d 1 (fun s => s.sr a &&& s.sr b) s
/-- AND with an immediate (R300). -/
def execAndImm (h : Hdr) (d a : SReg) (imm : BitVec 29) (s : State) : Host.Outcome State Fault Refusal :=
  scalarWord h d 1 (fun s => s.sr a &&& imm64 imm) s
/-- OR (R356). -/
def execOr (h : Hdr) (d a b : SReg) (s : State) : Host.Outcome State Fault Refusal :=
  scalarWord h d 1 (fun s => s.sr a ||| s.sr b) s
/-- OR with an immediate (R356). -/
def execOrImm (h : Hdr) (d a : SReg) (imm : BitVec 29) (s : State) : Host.Outcome State Fault Refusal :=
  scalarWord h d 1 (fun s => s.sr a ||| imm64 imm) s
/-- XOR (R415). -/
def execXor (h : Hdr) (d a b : SReg) (s : State) : Host.Outcome State Fault Refusal :=
  scalarWord h d 1 (fun s => s.sr a ^^^ s.sr b) s
/-- XOR with an immediate (R415). -/
def execXorImm (h : Hdr) (d a : SReg) (imm : BitVec 29) (s : State) : Host.Outcome State Fault Refusal :=
  scalarWord h d 1 (fun s => s.sr a ^^^ imm64 imm) s
/-- SHL: the count is s[b][5:0] (R368). -/
def execShl (h : Hdr) (d a b : SReg) (s : State) : Host.Outcome State Fault Refusal :=
  scalarWord h d 1 (fun s => s.sr a <<< ((s.sr b).toNat % 64)) s
/-- SHL by an immediate (R368). -/
def execShlImm (h : Hdr) (d a : SReg) (c : BitVec 6) (s : State) : Host.Outcome State Fault Refusal :=
  scalarWord h d 1 (fun s => s.sr a <<< c.toNat) s
/-- SHR (R368). -/
def execShr (h : Hdr) (d a b : SReg) (s : State) : Host.Outcome State Fault Refusal :=
  scalarWord h d 1 (fun s => s.sr a >>> ((s.sr b).toNat % 64)) s
/-- SHR by an immediate (R368). -/
def execShrImm (h : Hdr) (d a : SReg) (c : BitVec 6) (s : State) : Host.Outcome State Fault Refusal :=
  scalarWord h d 1 (fun s => s.sr a >>> c.toNat) s
/-- SAR (R368). -/
def execSar (h : Hdr) (d a b : SReg) (s : State) : Host.Outcome State Fault Refusal :=
  scalarWord h d 1 (fun s => (s.sr a).sshiftRight ((s.sr b).toNat % 64)) s
/-- SAR by an immediate (R368). -/
def execSarImm (h : Hdr) (d a : SReg) (c : BitVec 6) (s : State) : Host.Outcome State Fault Refusal :=
  scalarWord h d 1 (fun s => (s.sr a).sshiftRight c.toNat) s
/-- MIN (R335). -/
def execMin (h : Hdr) (d a b : SReg) (u : Bool) (s : State) : Host.Outcome State Fault Refusal :=
  scalarWord h d 1 (fun s => minWord u (s.sr a) (s.sr b)) s
/-- MIN with an immediate, signed (R335). -/
def execMinImm (h : Hdr) (d a : SReg) (imm : BitVec 29) (s : State) : Host.Outcome State Fault Refusal :=
  scalarWord h d 1 (fun s => minWord false (s.sr a) (imm64 imm)) s
/-- MAX (R335). -/
def execMax (h : Hdr) (d a b : SReg) (u : Bool) (s : State) : Host.Outcome State Fault Refusal :=
  scalarWord h d 1 (fun s => maxWord u (s.sr a) (s.sr b)) s
/-- MAX with an immediate, signed (R335). -/
def execMaxImm (h : Hdr) (d a : SReg) (imm : BitVec 29) (s : State) : Host.Outcome State Fault Refusal :=
  scalarWord h d 1 (fun s => maxWord false (s.sr a) (imm64 imm)) s
/-- SEL (R371). -/
def execSel (h : Hdr) (d a b : SReg) (p : PReg) (s : State) : Host.Outcome State Fault Refusal :=
  scalarWord h d 1 (fun s => if s.tile.regs.pred p.toNat then s.sr a else s.sr b) s
/-- CMP (R312). -/
def execCmp (h : Hdr) (c : Cond) (p : PReg) (a b : SReg) (s : State) : Host.Outcome State Fault Refusal :=
  predWord h p (fun s => condHolds c (s.sr a) (s.sr b)) s
/-- CMP with an immediate (R312). -/
def execCmpImm (h : Hdr) (c : Cond) (p : PReg) (a : SReg) (imm : BitVec 29) (s : State) : Host.Outcome State Fault Refusal :=
  predWord h p (fun s => condHolds c (s.sr a) (imm64 imm)) s
/-- POPC (R357). -/
def execPopc (h : Hdr) (d a : SReg) (s : State) : Host.Outcome State Fault Refusal :=
  scalarWord h d 1 (fun s => BitVec.ofNat 64 (popFrom (s.sr a) 64)) s
/-- CLZ (R311). -/
def execClz (h : Hdr) (d a : SReg) (s : State) : Host.Outcome State Fault Refusal :=
  scalarWord h d 1 (fun s => BitVec.ofNat 64 (clzFrom (s.sr a) 64)) s
/-- BFX (R304). -/
def execBfx (h : Hdr) (d a : SReg) (lo wm1 : BitVec 6) (sx : Bool) (s : State) : Host.Outcome State Fault Refusal :=
  scalarWord h d 1 (fun s => bfxWord (s.sr a) lo.toNat (wm1.toNat + 1) sx) s
/-- BFI (R304). -/
def execBfi (h : Hdr) (d a b : SReg) (lo wm1 : BitVec 6) (s : State) : Host.Outcome State Fault Refusal :=
  scalarWord h d 1 (fun s => bfiWord (s.sr a) (s.sr b) lo.toNat (wm1.toNat + 1)) s
/-- LEA (R331). -/
def execLea (h : Hdr) (d a b : SReg) (sh : BitVec 3) (disp : BitVec 20) (s : State) : Host.Outcome State Fault Refusal :=
  scalarWord h d 1 (fun s => s.sr a + (s.sr b <<< sh.toNat) + sext64 disp) s
/-- MOV between scalar registers and predicates (R342). -/
def execMov (h : Hdr) (k : MovKind) (s : State) : Host.Outcome State Fault Refusal :=
  match k with
  | .reg d a => scalarWord h d 1 (fun s => s.sr a) s
  | .fromPred d n => scalarWord h d 1 (fun s => if s.tile.regs.pred n.toNat then 1 else 0) s
  | .toPred n a => predWord h n (fun s => bitAt (s.sr a) 0) s
/-- LI (R332). -/
def execLi (h : Hdr) (d : SReg) (imm : BitVec 32) (u : Bool) (s : State) : Host.Outcome State Fault Refusal :=
  scalarWord h d 1 (fun _ => if u then zext64 imm else sext64 imm) s
/-- LIH replaces the high half and keeps the low half of s[d] as read at issue (R332). -/
def execLih (h : Hdr) (d : SReg) (imm : BitVec 32) (s : State) : Host.Outcome State Fault Refusal :=
  scalarWord h d 1 (fun s => BitVec.ofNat 64 (imm.toNat * 2 ^ 32 + (s.sr d).toNat % 2 ^ 32)) s

end Sys2Proof.Machine
end

