-- ==== Sys2Proof/Machine/Dispatch.lean ====
section
/-! DEFINITION. One arm per row of the opcode table: the meaning of a word is what happens when it issues on the tile
whose turn it is, the meaning of an event is what happens in it. -/

namespace Sys2Proof.Machine
open Sys2Proof

def exec (i : Instr) (s : State) : Host.Outcome State Fault Refusal :=
  match i with
  | .nop d => Sys2Proof.Machine.execNop d s
  | .add h d a b => Sys2Proof.Machine.execAdd h d a b s
  | .addImm h d a imm => Sys2Proof.Machine.execAddImm h d a imm s
  | .sub h d a b => Sys2Proof.Machine.execSub h d a b s
  | .mul h d a b => Sys2Proof.Machine.execMul h d a b s
  | .mulh h d a b k => Sys2Proof.Machine.execMulh h d a b k s
  | .div h d a b u => Sys2Proof.Machine.execDiv h d a b u s
  | .rem h d a b u => Sys2Proof.Machine.execRem h d a b u s
  | .and h d a b => Sys2Proof.Machine.execAnd h d a b s
  | .andImm h d a imm => Sys2Proof.Machine.execAndImm h d a imm s
  | .or h d a b => Sys2Proof.Machine.execOr h d a b s
  | .orImm h d a imm => Sys2Proof.Machine.execOrImm h d a imm s
  | .xor h d a b => Sys2Proof.Machine.execXor h d a b s
  | .xorImm h d a imm => Sys2Proof.Machine.execXorImm h d a imm s
  | .shl h d a b => Sys2Proof.Machine.execShl h d a b s
  | .shlImm h d a c => Sys2Proof.Machine.execShlImm h d a c s
  | .shr h d a b => Sys2Proof.Machine.execShr h d a b s
  | .shrImm h d a c => Sys2Proof.Machine.execShrImm h d a c s
  | .sar h d a b => Sys2Proof.Machine.execSar h d a b s
  | .sarImm h d a c => Sys2Proof.Machine.execSarImm h d a c s
  | .min h d a b u => Sys2Proof.Machine.execMin h d a b u s
  | .minImm h d a imm => Sys2Proof.Machine.execMinImm h d a imm s
  | .max h d a b u => Sys2Proof.Machine.execMax h d a b u s
  | .maxImm h d a imm => Sys2Proof.Machine.execMaxImm h d a imm s
  | .sel h d a b p => Sys2Proof.Machine.execSel h d a b p s
  | .cmp h c p a b => Sys2Proof.Machine.execCmp h c p a b s
  | .cmpImm h c p a imm => Sys2Proof.Machine.execCmpImm h c p a imm s
  | .popc h d a => Sys2Proof.Machine.execPopc h d a s
  | .clz h d a => Sys2Proof.Machine.execClz h d a s
  | .bfx h d a lo wm1 sx => Sys2Proof.Machine.execBfx h d a lo wm1 sx s
  | .bfi h d a b lo wm1 => Sys2Proof.Machine.execBfi h d a b lo wm1 s
  | .lea h d a b sh disp => Sys2Proof.Machine.execLea h d a b sh disp s
  | .mov h k => Sys2Proof.Machine.execMov h k s
  | .li h d imm u => Sys2Proof.Machine.execLi h d imm u s
  | .lih h d imm => Sys2Proof.Machine.execLih h d imm s
  | .br h off => Sys2Proof.Machine.execBr h off s
  | .jmpRel h off => Sys2Proof.Machine.execJmpRel h off s
  | .jmpReg h a => Sys2Proof.Machine.execJmpReg h a s
  | .call h link off => Sys2Proof.Machine.execCall h link off s
  | .ret h link => Sys2Proof.Machine.execRet h link s
  | .loop h n c e => Sys2Proof.Machine.execLoop h n c e s
  | .align h => Sys2Proof.Machine.execAlign h s
  | .chunk h => Sys2Proof.Machine.execChunk h s
  | .safept h map => Sys2Proof.Machine.execSafept h map s
  | .exit h a n => Sys2Proof.Machine.execExit h a n s
  | .waite h a mask => Sys2Proof.Machine.execWaite h a mask s
  | .waiteEvent t => Sys2Proof.Machine.execWaiteEvent t s
  | .ld h d a b sz sx disp => Sys2Proof.Machine.execLd h d a b sz sx disp s
  | .st h data a b sz disp => Sys2Proof.Machine.execSt h data a b sz disp s
  | .lds h d a b disp => Sys2Proof.Machine.execLds h d a b disp s
  | .ldsPerform t => Sys2Proof.Machine.execLdsPerform t s
  | .stf h data a b disp => Sys2Proof.Machine.execStf h data a b disp s
  | .stfPerform t => Sys2Proof.Machine.execStfPerform t s
  | .ste h a b disp => Sys2Proof.Machine.execSte h a b disp s
  | .pref h a b disp => Sys2Proof.Machine.execPref h a b disp s
  | .fence h sc => Sys2Proof.Machine.execFence h sc s
  | .fenceWaitSatisfied t => Sys2Proof.Machine.execFenceWaitSatisfied t s
  | .drain h p => Sys2Proof.Machine.execDrain h p s
  | .drainWaitSatisfied t => Sys2Proof.Machine.execDrainWaitSatisfied t s
  | .amo h d a b op dbl => Sys2Proof.Machine.execAmo h d a b op dbl s
  | .cas h d a b c dbl => Sys2Proof.Machine.execCas h d a b c dbl s
  | .atomicPerform t => Sys2Proof.Machine.execAtomicPerform t s
  | .red h a b op dbl => Sys2Proof.Machine.execRed h a b op dbl s
  | .farOpApply => Sys2Proof.Machine.execFarOpApply s
  | .cancel h d a => Sys2Proof.Machine.execCancel h d a s
  | .cancelApply d => Sys2Proof.Machine.execCancelApply d s
  | .repri h d a b c => Sys2Proof.Machine.execRepri h d a b c s
  | .repriApply d => Sys2Proof.Machine.execRepriApply d s
  | .freg h d a b => Sys2Proof.Machine.execFreg h d a b s
  | .fregPerform t => Sys2Proof.Machine.execFregPerform t s
  | .fres h a b fail => Sys2Proof.Machine.execFres h a b fail s
  | .fresPerform t => Sys2Proof.Machine.execFresPerform t s
  | .joinArrival => Sys2Proof.Machine.execJoinArrival s
  | .nld h v a cm1 => Sys2Proof.Machine.execNld h v a cm1 s
  | .nst h a b f => Sys2Proof.Machine.execNst h a b f s
  | .nalloc h d => Sys2Proof.Machine.execNalloc h d s
  | .nallocPerform t => Sys2Proof.Machine.execNallocPerform t s
  | .nfree h a => Sys2Proof.Machine.execNfree h a s
  | .nvloss h a b => Sys2Proof.Machine.execNvloss h a b s
  | .nback h a b c alt => Sys2Proof.Machine.execNback h a b c alt s
  | .walkNodeUpdate => Sys2Proof.Machine.execWalkNodeUpdate s
  | .copy h f => Sys2Proof.Machine.execCopy h f s
  | .copym h f m => Sys2Proof.Machine.execCopym h f m s
  | .gath h f => Sys2Proof.Machine.execGath h f s
  | .scat h f => Sys2Proof.Machine.execScat h f s
  | .tidw h a ch => Sys2Proof.Machine.execTidw h a ch s
  | .tidwWaitSatisfied t => Sys2Proof.Machine.execTidwWaitSatisfied t s
  | .mma h f => Sys2Proof.Machine.execMma h f s
  | .mzero h acc => Sys2Proof.Machine.execMzero h acc s
  | .mdrain h acc vd ty rm => Sys2Proof.Machine.execMdrain h acc vd ty rm s
  | .mstore h acc a b ty rm => Sys2Proof.Machine.execMstore h acc a b ty rm s
  | .mtile h acc => Sys2Proof.Machine.execMtile h acc s
  | .vld h f => Sys2Proof.Machine.execVld h f s
  | .vst h f => Sys2Proof.Machine.execVst h f s
  | .vlds h f => Sys2Proof.Machine.execVlds h f s
  | .vsts h f => Sys2Proof.Machine.execVsts h f s
  | .vbcast h vd src mask ty => Sys2Proof.Machine.execVbcast h vd src mask ty s
  | .vmovs h sd va ty idx => Sys2Proof.Machine.execVmovs h sd va ty idx s
  | .vshapeReg h src => Sys2Proof.Machine.execVshapeReg h src s
  | .vshapeImm h rows cols ty => Sys2Proof.Machine.execVshapeImm h rows cols ty s
  | .vadd h f => Sys2Proof.Machine.execVadd h f s
  | .vsub h f => Sys2Proof.Machine.execVsub h f s
  | .vmul h f => Sys2Proof.Machine.execVmul h f s
  | .vfma h f => Sys2Proof.Machine.execVfma h f s
  | .vmin h f => Sys2Proof.Machine.execVmin h f s
  | .vmax h f => Sys2Proof.Machine.execVmax h f s
  | .vdiv h f => Sys2Proof.Machine.execVdiv h f s
  | .vabs h f => Sys2Proof.Machine.execVabs h f s
  | .vneg h f => Sys2Proof.Machine.execVneg h f s
  | .vsqrt h f => Sys2Proof.Machine.execVsqrt h f s
  | .vrcp h f => Sys2Proof.Machine.execVrcp h f s
  | .vrsq h f => Sys2Proof.Machine.execVrsq h f s
  | .vexp2 h f => Sys2Proof.Machine.execVexp2 h f s
  | .vlog2 h f => Sys2Proof.Machine.execVlog2 h f s
  | .vtanh h f => Sys2Proof.Machine.execVtanh h f s
  | .vsigm h f => Sys2Proof.Machine.execVsigm h f s
  | .vcmp h md va vb mask ty c => Sys2Proof.Machine.execVcmp h md va vb mask ty c s
  | .vsel h vd va vb ms mask ty => Sys2Proof.Machine.execVsel h vd va vb ms mask ty s
  | .vand h f => Sys2Proof.Machine.execVand h f s
  | .vor h f => Sys2Proof.Machine.execVor h f s
  | .vxor h f => Sys2Proof.Machine.execVxor h f s
  | .vshl h f => Sys2Proof.Machine.execVshl h f s
  | .vshr h f => Sys2Proof.Machine.execVshr h f s
  | .viota h vd mask ty => Sys2Proof.Machine.execViota h vd mask ty s
  | .vcvt h vd va mask dty => Sys2Proof.Machine.execVcvt h vd va mask dty s
  | .vquant h vd va vb vc dty blk e4 cap => Sys2Proof.Machine.execVquant h vd va vb vc dty blk e4 cap s
  | .vtrans h vd va ty => Sys2Proof.Machine.execVtrans h vd va ty s
  | .vperm h vd va vb mask ty => Sys2Proof.Machine.execVperm h vd va vb mask ty s
  | .vred h n va mask ty clr => Sys2Proof.Machine.execVred h n va mask ty clr s
  | .vpsmov h vd n ty => Sys2Proof.Machine.execVpsmov h vd n ty s
  | .vscan h vd va n mask ty => Sys2Proof.Machine.execVscan h vd va n mask ty s
  | .vselk h vd va sb t src k mask ty => Sys2Proof.Machine.execVselk h vd va sb t src k mask ty s
  | .vmergek h vd va vb t src k => Sys2Proof.Machine.execVmergek h vd va vb t src k s
  | .vshort h vd va n mask ty => Sys2Proof.Machine.execVshort h vd va n mask ty s
  | .vsamp h sd va vb sc => Sys2Proof.Machine.execVsamp h sd va vb sc s
  | .vrng h vd src mask ty => Sys2Proof.Machine.execVrng h vd src mask ty s
  | .vmask h md op ty => Sys2Proof.Machine.execVmask h md op ty s
  | .trap h code => Sys2Proof.Machine.execTrap h code s
  | .rte h => Sys2Proof.Machine.execRte h s
  | .ctlrd h d num => Sys2Proof.Machine.execCtlrd h d num s
  | .ctlwr h a num => Sys2Proof.Machine.execCtlwr h a num s
  | .tlbi h arg => Sys2Proof.Machine.execTlbi h arg s
  | .tlbiPerform t => Sys2Proof.Machine.execTlbiPerform t s
  | .seal h d a b => Sys2Proof.Machine.execSeal h d a b s
  | .unseal h d a b => Sys2Proof.Machine.execUnseal h d a b s
  | .route h a b => Sys2Proof.Machine.execRoute h a b s
  | .routePerform t => Sys2Proof.Machine.execRoutePerform t s
  | .wordDelivery t => Sys2Proof.Machine.execWordDelivery t s
  | .voteWriteback t => Sys2Proof.Machine.execVoteWriteback t s
  | .understudyCommandMatch t => Sys2Proof.Machine.execUnderstudyCommandMatch t s
  | .commitRequest t => Sys2Proof.Machine.execCommitRequest t s
  | .localCommit t => Sys2Proof.Machine.execLocalCommit t s
  | .grantArrive d => Sys2Proof.Machine.execGrantArrive d s
  | .soloGrant => Sys2Proof.Machine.execSoloGrant s
  | .storeDrain => Sys2Proof.Machine.execStoreDrain s
  | .tileFree t => Sys2Proof.Machine.execTileFree t s
  | .launchPacket => Sys2Proof.Machine.execLaunchPacket s
  | .copyPacket => Sys2Proof.Machine.execCopyPacket s
  | .ckptPacket => Sys2Proof.Machine.execCkptPacket s
  | .dispatch d => Sys2Proof.Machine.execDispatch d s
  | .programLoad t => Sys2Proof.Machine.execProgramLoad t s
  | .refill d => Sys2Proof.Machine.execRefill d s
  | .ageingStep d => Sys2Proof.Machine.execAgeingStep d s
  | .deadlinePromote d => Sys2Proof.Machine.execDeadlinePromote d s
  | .deadlineLimit d => Sys2Proof.Machine.execDeadlineLimit d s
  | .renumberSweep d => Sys2Proof.Machine.execRenumberSweep d s
  | .rebalancePeriod d => Sys2Proof.Machine.execRebalancePeriod d s
  | .rebalanceMoveDone d => Sys2Proof.Machine.execRebalanceMoveDone d s
  | .chorusArrival d => Sys2Proof.Machine.execChorusArrival d s
  | .chorusWindowClose d => Sys2Proof.Machine.execChorusWindowClose d s
  | .chorusListWrite d => Sys2Proof.Machine.execChorusListWrite d s
  | .partitionShrink t => Sys2Proof.Machine.execPartitionShrink t s
  | .pinMoveDone => Sys2Proof.Machine.execPinMoveDone s
  | .saveComplete t => Sys2Proof.Machine.execSaveComplete t s
  | .watchdogSave t => Sys2Proof.Machine.execWatchdogSave t s
  | .deferredFault t => Sys2Proof.Machine.execDeferredFault t s
  | .trapTake t => Sys2Proof.Machine.execTrapTake t s
  | .asyncTrapTake t => Sys2Proof.Machine.execAsyncTrapTake t s
  | .mmaExecute t => Sys2Proof.Machine.execMmaExecute t s
  | .mzeroExecute t => Sys2Proof.Machine.execMzeroExecute t s
  | .mdrainExecute t => Sys2Proof.Machine.execMdrainExecute t s
  | .mstoreExecute t => Sys2Proof.Machine.execMstoreExecute t s
  | .mtileExecute t => Sys2Proof.Machine.execMtileExecute t s
  | .copyTransfer t ch => Sys2Proof.Machine.execCopyTransfer t ch s
  | .sectorLand x => Sys2Proof.Machine.execSectorLand x s
  | .transferComplete x => Sys2Proof.Machine.execTransferComplete x s
  | .gatingEntry t => Sys2Proof.Machine.execGatingEntry t s
  | .gatingComplete t => Sys2Proof.Machine.execGatingComplete t s
  | .ungateComplete t => Sys2Proof.Machine.execUngateComplete t s
  | .wakeMessage t => Sys2Proof.Machine.execWakeMessage t s
  | .scrubPass => Sys2Proof.Machine.execScrubPass s
  | .translationWalk t va => Sys2Proof.Machine.execTranslationWalk t va s
  | .cancelreq d v => Sys2Proof.Machine.execCancelreq d v s
  | .chclsWrite d k => Sys2Proof.Machine.execChclsWrite d k s
  | .pagein d v => Sys2Proof.Machine.execPagein d v s
  | .kvfree d v => Sys2Proof.Machine.execKvfree d v s
  | .poisonclr d v => Sys2Proof.Machine.execPoisonclr d v s
  | .migcmdStart d => Sys2Proof.Machine.execMigcmdStart d s
  | .migrationFillDone => Sys2Proof.Machine.execMigrationFillDone s
  | .migcmdDone d => Sys2Proof.Machine.execMigcmdDone d s
  | .migrationRetry => Sys2Proof.Machine.execMigrationRetry s
  | .intr t v => Sys2Proof.Machine.execIntr t v s
  | .wake t => Sys2Proof.Machine.execWake t s
  | .preq t v => Sys2Proof.Machine.execPreq t v s
  | .owner who expect v => Sys2Proof.Machine.execOwner who expect v s
  | .ownerbrk v => Sys2Proof.Machine.execOwnerbrk v s
  | .slotStageWrite slot off v who => Sys2Proof.Machine.execSlotStageWrite slot off v who s
  | .slotCommitWrite slot v who => Sys2Proof.Machine.execSlotCommitWrite slot v who s
  | .pmapWrite n v who => Sys2Proof.Machine.execPmapWrite n v who s
  | .portEnableWrite p v who => Sys2Proof.Machine.execPortEnableWrite p v who s
  | .tenantRecordWrite addr v who => Sys2Proof.Machine.execTenantRecordWrite addr v who s
  | .registerWrite addr v who => Sys2Proof.Machine.execRegisterWrite addr v who s
  | .hostAccess r => Sys2Proof.Machine.execHostAccess r s
  | .linkFrameReceive p bytes crcOk => Sys2Proof.Machine.execLinkFrameReceive p bytes crcOk s
  | .linkDown p => Sys2Proof.Machine.execLinkDown p s
  | .linkUp p => Sys2Proof.Machine.execLinkUp p s
  | .packetForward => Sys2Proof.Machine.execPacketForward s
  | .packetEject => Sys2Proof.Machine.execPacketEject s
  | .fabricLoad => Sys2Proof.Machine.execFabricLoad s
  | .fabricStore => Sys2Proof.Machine.execFabricStore s
  | .fabricNst => Sys2Proof.Machine.execFabricNst s
  | .fabricRed => Sys2Proof.Machine.execFabricRed s
  | .fabricNfree => Sys2Proof.Machine.execFabricNfree s
  | .fabricAmo => Sys2Proof.Machine.execFabricAmo s
  | .fabricCas => Sys2Proof.Machine.execFabricCas s
  | .fabricWalk => Sys2Proof.Machine.execFabricWalk s
  | .fabricCopydata => Sys2Proof.Machine.execFabricCopydata s
  | .fabricProbe => Sys2Proof.Machine.execFabricProbe s
  | .fabricReply => Sys2Proof.Machine.execFabricReply s
  | .fabricRouteerr => Sys2Proof.Machine.execFabricRouteerr s
  | .requestTimeout => Sys2Proof.Machine.execRequestTimeout s
  | .sealOperation => Sys2Proof.Machine.execSealOperation s
  | .unsealOperation => Sys2Proof.Machine.execUnsealOperation s
  | .peerCounterRaise m => Sys2Proof.Machine.execPeerCounterRaise m s
  | .peerQuery m => Sys2Proof.Machine.execPeerQuery m s
  | .quorumTimeout => Sys2Proof.Machine.execQuorumTimeout s
  | .powerSample pmod => Sys2Proof.Machine.execPowerSample pmod s
  | .powerOnReset failedStep failedBanks rootPort => Sys2Proof.Machine.execPowerOnReset failedStep failedBanks rootPort s
  | .resultLanding t => Sys2Proof.Machine.execResultLanding t s
  | .loadValueLands t => Sys2Proof.Machine.execLoadValueLands t s

end Sys2Proof.Machine
end

