-- ==== Sys2Proof/Machine/Turn.lean ====
section
/-! DEFINITION. The order within a cycle (DESIGN CHOICE, log 6): inputs from outside, events until none is left that changes anything, then the
tiles by number, each issuing and fetching its words, then the next cycle. -/

namespace Sys2Proof.Machine
open Sys2Proof

/-! ### The events of a cycle -/

/-- Nothing can happen on a tile by itself. -/
def Tile.still (x : Tile) : Bool :=
  x.task.isNone && !x.ended && !x.wake && !x.stir && x.activeCmds.isEmpty && x.drains.isEmpty && x.xfers.toList.all (·.isNone)
    && (match x.gate with | .awake | .gated => true | _ => false) && !x.failed

/-- Events that are looked for under a condition. -/
def given (b : Bool) (l : List Instr) : List Instr := if b then l else []

/-- The events of a channel of a tile. -/
def chanEvents (t : TileNo) (k : BitVec 2) : List Instr := [.copyTransfer t k, .sectorLand (.chan t k), .transferComplete (.chan t k)]

/-- The events of gating. -/
def gateEvents (x : Tile) (t : TileNo) (now : Nat) : List Instr :=
  match x.gate with
  | .awake => given (decide (x.idleSince + 256 ≤ now) && x.idleNow) [.gatingEntry t]
  | .entering e _ => given (decide (e + 48 ≤ now)) [.gatingComplete t]
  | .ungating e => given (decide (e + 96 ≤ now)) [.ungateComplete t]
  | .gated => []

/-- The event of a boundary operation. -/
def BOp.event (t : TileNo) : BOp → List Instr
  | .lds .. => [.ldsPerform t]
  | .stf .. => [.stfPerform t]
  | .ste _ => []
  | .amo .. | .cas .. => [.atomicPerform t]
  | .freg .. => [.fregPerform t]
  | .fres .. => [.fresPerform t]
  | .nalloc _ => [.nallocPerform t]
  | .fence _ => [.fenceWaitSatisfied t]
  | .drain _ => [.drainWaitSatisfied t]
  | .tidw .. => [.tidwWaitSatisfied t]
  | .tlbi .. => [.tlbiPerform t]
  | .route .. => [.routePerform t]
  | .repri .. | .cancel .. | .seal .. | .unseal .. => []

/-- A result of fixed latency is due. -/
def Tile.due (x : Tile) (now : Nat) : Bool := x.inflight.any fun l => decide (l.cyc ≤ now)

/-- An asynchronous event, or one that has truncated a chunk which has emptied, may be taken. -/
def Tile.asyncWaits (x : Tile) : Bool := x.nextAsync.isSome || match x.cur with | some c => c.taken.isSome | none => false

/-- The events of a tile, in the order in which they are looked for: votes before the landings of their cycle (R74), saves before the
waits that they withdraw (R114, R241), faults and boundary words before the commit, the commit before traps, then engines.  A list leaves
out only events that cannot change anything now. -/
def Tile.events (x : Tile) (t : TileNo) (now : Nat) : List Instr :=
  List.flatten [
    given (!x.votes.isEmpty) [.voteWriteback t],
    given (x.due now) [.resultLanding t],
    given (!(x.loads.isEmpty && x.drains.isEmpty)) [.loadValueLands t],
    given (x.wake || x.stir) [.wakeMessage t],
    given x.preq.isSome [.watchdogSave t],
    given x.saving.isSome [.saveComplete t],
    given x.waite.isSome [.waiteEvent t],
    given x.deferred.isSome [.deferredFault t],
    match x.bnd with | some b => b.op.event t | none => [],
    given (!x.released.isEmpty) [.understudyCommandMatch t],
    given (x.mayRequest now) [.commitRequest t],
    given (match x.oldest with | some c => c.requested.isSome | none => false) [.localCommit t],
    given x.trap.isSome [.trapTake t],
    given x.asyncWaits [.asyncTrapTake t],
    given x.loading.isSome [.programLoad t],
    given (!x.mqueue.isEmpty) [.mmaExecute t, .mzeroExecute t, .mdrainExecute t, .mstoreExecute t, .mtileExecute t],
    (List.range 4).flatMap fun c =>
      given (!((vget x.chans c).isEmpty && (vget x.xfers c).isNone)) (chanEvents t (BitVec.ofNat 2 c)),
    given (x.ended || x.cancelEnd) [.tileFree t],
    given x.failed [.partitionShrink t],
    gateEvents x t now]

/-- A class of the Chorus that holds a member. -/
def ChClass.inUse (c : ChClass) : Bool := !(c.collecting.isEmpty && c.closing.isEmpty && c.backlog.isEmpty && c.closed.isNone)

/-- The dispatch decision of a die, then the operations that reach it (R49): they come before the waits of the tiles that they withdraw
(R114). -/
def Die.decisions (x : Die) (d : DieNo) : List Instr := given (!x.heap.isEmpty) [.dispatch d] ++ given (!x.ops.isEmpty) [.cancelApply d, .repriApply d]

/-- The other events of a die. -/
def Die.events (x : Die) (d : DieNo) : List Instr :=
  let some_ := !(x.heap.isEmpty && x.moves.isEmpty && x.buckets.isEmpty && x.chIn.isEmpty && x.parked.isEmpty && x.ch.toList.all fun c => !c.inUse)
  List.flatten [
    given (!x.requests.isEmpty) [.grantArrive d],
    given (decide (x.ageStep < x.cyc.toNat / 4096)) [.ageingStep d],
    given some_ [.deadlinePromote d, .deadlineLimit d, .refill d],
    given (some_ || x.renum) [.renumberSweep d],
    given (decide (x.rebalStep < x.cyc.toNat / 1024)) [.rebalancePeriod d],
    given (!x.chIn.isEmpty) [.chorusArrival d],
    given some_ [.chorusWindowClose d, .chorusListWrite d],
    (List.range 16).flatMap fun k => given (vget x.ch k).pending.isSome [.chclsWrite d (BitVec.ofNat 5 (k + 1))],
    (List.range x.pktCopies.length).flatMap fun i => [.sectorLand (.packet d i), .transferComplete (.packet d i)]]

/-- Something waits for a migration, or for another device after a RETRY. -/
def State.retries (s : State) : Bool :=
  s.dies.any (fun (d : Die) => d.mig.isSome) || s.wb.any (fun w => w.notBefore != 0) || s.far.any (fun f => f.notBefore != 0)
    || !s.dueAgain.isEmpty

/-- A queue reader has a packet to serve, or waits for words of another device. -/
def State.packetWaits (s : State) : Bool :=
  let r := nextTurn { s with needs := [], stalled := false }
  r.1.isSome || r.2.stalled || !r.2.needs.isEmpty || !s.pulled.isEmpty

/-- The events of the queue readers (R43). -/
def State.packetEvents (s : State) : List Instr := given s.packetWaits [.launchPacket, .copyPacket, .ckptPacket]

/-- The other events of the package. -/
def State.packageEvents (s : State) : List Instr :=
  List.flatten [
    given (!s.far.isEmpty) [.farOpApply, .walkNodeUpdate],
    given (!s.arrivals.isEmpty) [.joinArrival],
    given (decide (s.grantAt ≤ s.now)) [.grantArrive (BitVec.ofNat 2 s.grant)],
    given (s.soloTile.isSome || !s.soloQueue.isEmpty || s.tiles.any fun t => (s.tileAt t).soloWant) [.soloGrant],
    given (!s.wb.isEmpty) [.storeDrain],
    given (!s.pinMoves.isEmpty) [.pinMoveDone],
    given s.retries [.migrationFillDone, .migrationRetry],
    given (!s.host.outbound.isEmpty) [.packetForward],
    given (!s.host.arriving.isEmpty) [.packetEject],
    given (!s.host.inbound.isEmpty) [.fabricLoad, .fabricStore, .fabricNst, .fabricRed, .fabricNfree, .fabricAmo, .fabricCas,
      .fabricWalk, .fabricCopydata, .fabricProbe, .fabricReply, .fabricRouteerr],
    given (s.host.rtimeout != 0) [.requestTimeout],
    given (!s.host.glaze.isEmpty) [.sealOperation, .unsealOperation, .quorumTimeout],
    given (decide (s.scrubs < s.now / 2 ^ 27)) [.scrubPass],
    given (decide (s.host.psample < s.host.cyc.toNat / 4096)) [.powerSample (Config.modulePower s.free)]]

/-- The tiles that the events concern: those that are not still, and those that have been idle for 256 tc (R242). -/
def State.busyTiles (s : State) : List Nat :=
  (List.range 512).filter fun t =>
    let x := s.tileAt t
    !x.still || x.gate == .awake && decide (x.idleSince + 256 ≤ s.now)

/-- The events of the tiles. -/
def State.tileEvents (s : State) : List Instr :=
  s.busyTiles.flatMap fun t => (s.tileAt t).events (BitVec.ofNat 9 t) s.now

/-- The decisions of the dies. -/
def State.dieDecisions (s : State) : List Instr := (List.range 4).flatMap fun d => (s.die d).decisions (BitVec.ofNat 2 d)

/-- The other events of the dies, and the ends of moves between them. -/
def State.dieEvents (s : State) : List Instr :=
  (List.range 4).flatMap fun d => (s.die d).events (BitVec.ofNat 2 d) ++ given (s.moveOver d).isSome [.rebalanceMoveDone (BitVec.ofNat 2 d)]

/-- A state in which an event has changed nothing but what its agent has asked for and the counter of free values. -/
def State.sameBut (a b : State) : Bool :=
  withPtrEq a b (fun _ =>
    let c : State := { a with needs := b.needs, free := b.free, stalled := b.stalled }
    c == b) (by rintro rfl; simp)

/-- What has happened from one state to the other has met a word of another device that is not there yet, or a RETRY of a home: nothing
of it happens, and it comes again (R55, R139, DESIGN CHOICE, log 14). -/
def State.asked (s s1 : State) : Bool := decide (s.needs.length < s1.needs.length) || s1.stalled && !s.stalled

/-- The first event of a list that changes something; what the others have asked for stays asked for. -/
def tryEvents : List Instr → State → State × Bool
  | [], s => (s, false)
  | i :: r, s =>
    match exec i s with
    | .next s1 => if s1.sameBut s || s.asked s1 then tryEvents r { s with needs := s1.needs, free := s1.free } else (s1, true)
    | _ => tryEvents r s

/-- The first event of some groups, taken in order, that changes something. -/
def tryGroups : List (State → List Instr) → State → State × Bool
  | [], s => (s, false)
  | f :: r, s =>
    match tryEvents (f s) s with
    | (s1, true) => (s1, true)
    | (s1, false) => tryGroups r s1

/-- Every event that may be enabled, in the order in which they are looked for. -/
def eventGroups : List (State → List Instr) := [State.dieDecisions, State.tileEvents, State.packageEvents, State.dieEvents, State.packetEvents]

/-- The events of the cycle are over: what agents have asked other devices for is sent, and the tiles with a task move (R55, R423). -/
def State.beginTurn (s : State) : State :=
  let s := if s.needs.isEmpty && s.posts.isEmpty then s else s.sendNeeds
  { s with turn := some (s.tiles.filter fun t => (s.tileAt t).task.isSome) }

/-- One event, or the beginning of the tiles' turn.  A cycle has at most 2^20 events. -/
def State.eventStep (s : State) : State :=
  if s.moves < 2 ^ 20 then
    match tryGroups eventGroups s with
    | (s1, true) => { s1 with moves := s.moves + 1 }
    | (s1, false) => s1.beginTurn
  else s.beginTurn

/-! ### The tiles -/

/-- Whether the word of a queue entry has waited for something else than its delay (R85). -/
def Tile.waitedFor (x : Tile) (q : QEntry) (c : Chunk) (now : Nat) : Bool :=
  decide (max (x.dueAt q) ((c.start.map (·.f)).getD 0) < now)

/-- The tile in turn takes a queued word up for issue: the word leaves the queue, delivery in this cycle is over (DEDUCED, log 38), and its chunk
notes the first word that has waited (R85). -/
def Tile.takeUp (x : Tile) (q : QEntry) (now : Nat) : Tile :=
  ({ x with iw := q.slot, queue := x.queue.erase q, retry := false, dcyc := now, dcount := max 4 (x.deliveredIn now) } : Tile).modChunk q.slot.seq fun c =>
    let n := q.slot.seq - c.first
    if x.waitedFor q c now then { c with stallAt := some (min n (c.stallAt.getD n)) } else c

/-- A queued word issues on the tile in turn: it leaves the queue, unless a RETRY, or a wait of an agent, has kept it from issuing
(R139). -/
def State.issueQueued (s : State) (q : QEntry) : Host.Outcome State Fault Refusal :=
  let s1 := s.onTile fun x => x.takeUp q s.now
  match exec q.word s1 with
  | .next s2 =>
    .next (if s1.asked s2 then { s1 with needs := s2.needs }.onTile fun x => { x with queue := s.tile.queue, retry := true }
      else if s2.tile.retry then s2.onTile fun x => { x with queue := s.tile.queue }
      else s2.onTile fun x => { x with retry := s.tile.retry })
  | o => o

/-- What fetch can still deliver to the tile in turn in this cycle (R70), unless the duty of its die gates it (R294). -/
def State.deliverTurn (s : State) : State :=
  if s.dutyHeld s.tileId then s else s.onTile fun x => x.deliverUp s.now

/-- One move of the tile in turn: what fetch delivers in the cycle, then the first word that can issue; else its turn is over. -/
def State.tileStep (s : State) (rest : List Nat) : Host.Outcome State Fault Refusal :=
  let s1 := s.deliverTurn
  match s1.ready with
  | some q => s1.issueQueued q
  | none => .next (({ s1 with turn := some rest } : State).onTile fun x => { x with retry := false })

/-! ### Time -/

/-- The next cycle: every counter advances (R16), idle tiles are accounted for (R242), and tiles that the duty gates hold (R294). -/
def State.nextCycle (s : State) : State :=
  let s := s.tiles.foldl (fun s t => s.modTile t fun x => if x.still then x else x.noteIdle s.now) s
  let s1 : State := { s with
    now := s.now + 1
    turn := none
    moves := 0
    dies := s.dies.map fun x => { x.armRefill with cyc := x.cyc + 1 }
    host := { s.host with cyc := s.host.cyc + 1 } }
  s1.holdGated

/-- The first input that is due, and the state without it. (DESIGN CHOICE, log 32) -/
def State.dueInput (s : State) : Option (Instr × State) :=
  match s.inputs with
  | (c, i) :: r => if c ≤ s.now then some (i, { s with inputs := r }) else none
  | [] => none

/-- An input from outside; one that waits for another device comes again in the next cycle. -/
def State.inputStep (i : Instr) (s : State) : Host.Outcome State Fault Refusal :=
  match exec i s with
  | .next s1 =>
    if s.asked s1 then .next { s with needs := s1.needs, inputs := insertBy (fun a b => decide (a.1 < b.1)) (s.now + 1, i) s.inputs }
    else .next s1
  | o => o

/-- Whether an input is a power-on reset. -/
def isPowerOn : Instr → Bool | .powerOnReset .. => true | _ => false

/-- One step of the module (DESIGN CHOICE, log 6); one that a failed bring-up step holds in reset takes no input but a power-on reset, and
nothing in it counts (R17, R298). -/
def State.step (s : State) : Host.Outcome State Fault Refusal :=
  match s.dueInput with
  | some (i, s1) => if s.host.failedStep.isSome && !isPowerOn i then .next s1 else s1.inputStep i
  | none =>
    if s.host.failedStep.isSome then (if s.inputs.isEmpty then .fault .heldInReset else .next { s with now := s.now + 1 })
    else
      match s.turn with
      | none => .next s.eventStep
      | some [] => .next s.nextCycle
      | some (t :: rest) => (s.focus t).tileStep rest

/-! ### A program in place -/

/-- The state with a word where the next step fetches: tile 0 runs a task whose plane holds it, with a word of zeros behind it
(DESIGN CHOICE, log 39). -/
def State.placeWord (s : State) (w : Word) : State :=
  let p : Plane := { Plane.empty with words := Assoc.set 0 0 w [], count := 2 }
  let k : Task := { ctx := 0, blk := blockOf (List.replicate 8 0), ek := 0, seq := 0, cancelled := false, enq := 0,
                    buffer := none, mgmt := none }
  let s := s.focus 0
  let x := ({ s.tile with task := some k, planes := vset s.tile.planes 0 p }).begin k false s.now
  { s with
    tile := { x with fresume := s.now, occ := ⟨s.now, s.now, s.now, s.now⟩, ends := ⟨s.now, s.now, s.now, s.now⟩, gate := .awake, snap := ⟨x.regs, [], ⟨s.now, s.now, s.now, s.now⟩, ⟨s.now, s.now, s.now, s.now⟩, s.now⟩ }
    turn := some [0] }

end Sys2Proof.Machine
end

