-- ==== Sys2Proof/Machine/Step.lean ====
section
/-! DEFINITION. One step of the module, and a word placed where the next step fetches it. -/

namespace Sys2Proof.Machine
open Sys2Proof

/-- One step: an input, an event, a word, or the next cycle. -/
def step (s : State) : Host.Outcome State Fault Refusal := s.step

/-- The state with a word placed where the next step fetches. -/
def State.withFetchWord (s : State) (_nbits w : Nat) : State := s.placeWord (BitVec.ofNat 64 w)

end Sys2Proof.Machine
end

