-- ==== Sys2Proof/Safety.lean ====
section
/-! DEFINITION. What counts as a safe run: every step answers a next state. -/

namespace Sys2Proof.Machine

/-- The state is reached from `s` in some number of steps, each of which answers a next state. -/
inductive Reaches (s : State) : State → Prop
  | here : Reaches s s
  | more (t u : State) : Reaches s t → step t = .next u → Reaches s u

/-- A run from `s` never stops. -/
def Safe (s : State) : Prop := ∀ t, Reaches s t → ∃ u, step t = .next u

end Sys2Proof.Machine
end

