-- ==== Sys2Proof/Certificates/Slice0/Obligations.lean ====
section
/-! DEFINITION. The statements about the model, and the few words they share. -/

namespace Sys2Proof.Spec
open Sys2Proof Sys2Proof.Machine

/-! ### What an issue changes and what it leaves -/

/-- An open chunk without the counts that every issue keeps (R83, R84, R93). -/
def bare (c : Chunk) : Chunk := { c with issued := 0, lastS := 0, lastAt := 0, start := none }

/-- The same without the flags that its words have raised (R152). -/
def bareExc (c : Chunk) : Chunk := { bare c with exc := [] }

/-- Two tiles differ at most in the occupancies, the cycle and snapshot of the last issue, the fetch break, and in what `g` does not
keep of the open chunks. -/
def TileQuiet (g : Chunk → Chunk) (x y : Tile) : Prop :=
  y = { x with occ := y.occ, ends := y.ends, lastIssue := y.lastIssue, snap := y.snap, cur := y.cur, older := y.older,
               fstop := y.fstop, fresume := y.fresume } ∧
  y.cur.map g = x.cur.map g ∧ y.older.map g = x.older.map g

/-- The module is as before but for what `TileQuiet` lets an issue change: no register, flag, accumulator or special register is
written, no other tile, die or transfer is touched, and every byte reads as before, in memory and for a core of the tile. -/
def QuietBy (g : Chunk → Chunk) (s t : State) : Prop :=
  t = { s with tile := t.tile } ∧ TileQuiet g s.tile t.tile ∧
  (∀ a, Memory.byte t.mem a = Memory.byte s.mem a) ∧ ∀ a, t.coreRead a 1 = s.coreRead a 1

/-- Nothing but the issue. -/
def Quiet (s t : State) : Prop := QuietBy bare s t

/-- The word has issued on engine `e`, which stands occupied for `n` cycles from now on. -/
def IssuedOn (e : Eng) (n : Nat) (s t : State) : Prop :=
  t.tile.lastIssue = s.now ∧ t.tile.occ.get e = s.now + n ∧ ∀ f, f ≠ e → t.tile.occ.get f = s.tile.occ.get f

/-- Occupancy of a word: three times its own with the vote bit (R74). -/
def span (h : Hdr) (n : Nat) : Nat := if h.v then 3 * n else n

/-- Cycle of the last of a word's issues: with the vote bit the third (R74, R166). -/
def lastIssue (s : State) (h : Hdr) (n : Nat) : Nat := s.now + (if h.v then 2 * n else 0)

/-- The results `l` of a word as three copies each, to be voted on by elements of `w` bits, where it has the vote bit; those of its
second and third issues come with the first (R74, R248). -/
def Copied (h : Hdr) (w : Nat) (l : List Landing) (vs : List Vote) : Prop :=
  vs.map (·.a) = (if h.v then l else []) ∧ ∀ v ∈ vs, v.width = w ∧ v.b.cyc = v.a.cyc ∧ v.c.cyc = v.a.cyc

/-- The state with results on their way: they join those in flight, or with the vote bit those that await their vote. -/
def sending (h : Hdr) (l : List Landing) (vs : List Vote) (s : State) : State :=
  { s with tile := { s.tile with
      inflight := s.tile.inflight ++ (if h.v then [] else l)
      votes := s.tile.votes ++ vs } }

/-- The state as an issue of the same word `k` cycles later finds it: what lands by then has landed (R74). -/
def soon (k : Nat) (s : State) : State := { s with tile := s.tile.ahead s.now k }

/-- The state with the open chunk of the word that issues changed by `f`. -/
def marking (f : Chunk → Chunk) (s : State) : State := { s with tile := s.tile.modChunk s.tile.iw.seq f }

/-- The state with fetch of the tile in turn changed by `f`. -/
def fetching (f : Fetch → Fetch) (s : State) : State := { s with tile := { s.tile with fetch := f s.tile.fetch } }

/-- The word issues on `e` for `n` cycles, `eff` happens to the module, and nothing else. -/
def Does (e : Eng) (n : Nat) (eff : State → State) (s t : State) : Prop := IssuedOn e n s t ∧ Quiet (eff s) t

/-- The word issues on `e` for `n` cycles and sends the results `l`, and nothing else happens but `eff`. -/
def Sends (h : Hdr) (e : Eng) (n : Nat) (l : List Landing) (eff : State → State) (s t : State) : Prop :=
  ∃ vs, Copied h 32 l vs ∧ Does e n (fun x => eff (sending h l vs x)) s t

/-- The same for a word that reaches memory through a translation: `m` is the module after it, its engine occupied. -/
def DoesAfter (eff : State → State) (s m t : State) : Prop := t.tile.lastIssue = s.now ∧ t.tile.occ = m.tile.occ ∧ Quiet (eff m) t

/-! ### Scalar words -/

/-- s[r] as read in this cycle. -/
def sx (s : State) (r : SReg) : Word := s.tile.regs.sreg r.toNat

/-- The greater or the lesser of two words, as signed or unsigned numbers (R335). -/
def lesser (u : Bool) (x y : Word) : Word :=
  if u then (if x.toNat ≤ y.toNat then x else y) else if x.toInt ≤ y.toInt then x else y
def greater (u : Bool) (x y : Word) : Word :=
  if u then (if x.toNat ≤ y.toNat then y else x) else if x.toInt ≤ y.toInt then y else x

/-- Header, destination, latency and result of an arithmetic, logic or shift word (R300, R318, R347, R356, R368, R376, R415). -/
def arith (i : Instr) (s : State) : Option (Hdr × SReg × Nat × Word) :=
  match i with
  | .add h d a b => some (h, d, 1, sx s a + sx s b)
  | .addImm h d a m => some (h, d, 1, sx s a + m.signExtend 64)
  | .sub h d a b => some (h, d, 1, sx s a - sx s b)
  | .mul h d a b => some (h, d, 3, BitVec.ofNat 64 ((sx s a).toNat * (sx s b).toNat))
  | .mulh h d a b .ss => some (h, d, 3, BitVec.ofInt 64 ((sx s a).toInt * (sx s b).toInt / 2 ^ 64))
  | .mulh h d a b .uu => some (h, d, 3, BitVec.ofNat 64 ((sx s a).toNat * (sx s b).toNat / 2 ^ 64))
  | .mulh h d a b .su => some (h, d, 3, BitVec.ofInt 64 ((sx s a).toInt * ((sx s b).toNat : Int) / 2 ^ 64))
  | .div h d a b u => some (h, d, 20,
      if sx s b = 0 then BitVec.allOnes 64
      else if u then BitVec.ofNat 64 ((sx s a).toNat / (sx s b).toNat)
      else BitVec.ofInt 64 ((sx s a).toInt.tdiv (sx s b).toInt))
  | .rem h d a b u => some (h, d, 20,
      if sx s b = 0 then sx s a
      else if u then BitVec.ofNat 64 ((sx s a).toNat % (sx s b).toNat)
      else BitVec.ofInt 64 ((sx s a).toInt - (sx s b).toInt * (sx s a).toInt.tdiv (sx s b).toInt))
  | .and h d a b => some (h, d, 1, sx s a &&& sx s b)
  | .andImm h d a m => some (h, d, 1, sx s a &&& m.signExtend 64)
  | .or h d a b => some (h, d, 1, sx s a ||| sx s b)
  | .orImm h d a m => some (h, d, 1, sx s a ||| m.signExtend 64)
  | .xor h d a b => some (h, d, 1, sx s a ^^^ sx s b)
  | .xorImm h d a m => some (h, d, 1, sx s a ^^^ m.signExtend 64)
  | .shl h d a b => some (h, d, 1, sx s a <<< ((sx s b).extractLsb' 0 6).toNat)
  | .shlImm h d a c => some (h, d, 1, sx s a <<< c.toNat)
  | .shr h d a b => some (h, d, 1, sx s a >>> ((sx s b).extractLsb' 0 6).toNat)
  | .shrImm h d a c => some (h, d, 1, sx s a >>> c.toNat)
  | .sar h d a b => some (h, d, 1, (sx s a).sshiftRight ((sx s b).extractLsb' 0 6).toNat)
  | .sarImm h d a c => some (h, d, 1, (sx s a).sshiftRight c.toNat)
  | _ => none

/-- Header, destination and result of a selecting, counting, field or moving word, each with latency 1; the result is the word that
meets the rule given (R304, R311, R331, R332, R335, R342, R357, R371).  The field of BFX and BFI lies within the word (R304). -/
def pickWord (i : Instr) (s : State) : Option (Hdr × SReg × (Word → Prop)) :=
  match i with
  | .min h d a b u => some (h, d, fun v => v = lesser u (sx s a) (sx s b))
  | .minImm h d a m => some (h, d, fun v => v = lesser false (sx s a) (m.signExtend 64))
  | .max h d a b u => some (h, d, fun v => v = greater u (sx s a) (sx s b))
  | .maxImm h d a m => some (h, d, fun v => v = greater false (sx s a) (m.signExtend 64))
  | .sel h d a b p => some (h, d, fun v => v = if s.tile.regs.pred p.toNat then sx s a else sx s b)
  | .popc h d a => some (h, d, fun v => v.toNat = ((List.range 64).filter fun k => (sx s a).getLsbD k).length)
  | .clz h d a => some (h, d, fun v => v.toNat ≤ 64 ∧ (∀ k, 64 - v.toNat ≤ k → (sx s a).getLsbD k = false) ∧
      (v.toNat = 64 ∨ (sx s a).getLsbD (63 - v.toNat) = true))
  | .bfx h d a lo w x => if 64 ≤ lo.toNat + w.toNat then none else some (h, d, fun v =>
      ∀ k, k < 64 → v.getLsbD k =
        if k ≤ w.toNat then (sx s a).getLsbD (lo.toNat + k) else x && (sx s a).getLsbD (lo.toNat + w.toNat))
  | .bfi h d a b lo w => if 64 ≤ lo.toNat + w.toNat then none else some (h, d, fun v =>
      ∀ k, k < 64 → v.getLsbD k =
        if lo.toNat ≤ k ∧ k ≤ lo.toNat + w.toNat then (sx s b).getLsbD (k - lo.toNat) else (sx s a).getLsbD k)
  | .lea h d a b sh m => some (h, d, fun v => v = sx s a + (sx s b <<< sh.toNat) + m.signExtend 64)
  | .mov h (.reg d a) => some (h, d, fun v => v = sx s a)
  | .mov h (.fromPred d n) => some (h, d, fun v => v = if s.tile.regs.pred n.toNat then 1 else 0)
  | .li h d m u => some (h, d, fun v => v = if u then m.zeroExtend 64 else m.signExtend 64)
  | .lih h d m => some (h, d, fun v => v = m ++ (sx s d).extractLsb' 0 32)
  | _ => none

/-- Header, destination and result of a word that writes a predicate (R312, R342). -/
def predicate (i : Instr) (s : State) : Option (Hdr × PReg × Bool) :=
  let holds := fun (c : Cond) (x y : Word) => match c with
    | .eq => decide (x = y) | .ne => decide (x ≠ y) | .lt => decide (x.toInt < y.toInt) | .ge => decide (y.toInt ≤ x.toInt)
    | .ltu => decide (x.toNat < y.toNat) | .geu => decide (y.toNat ≤ x.toNat)
  match i with
  | .cmp h c p a b => some (h, p, holds c (sx s a) (sx s b))
  | .cmpImm h c p a m => some (h, p, holds c (sx s a) (m.signExtend 64))
  | .mov h (.toPred n a) => some (h, n, (sx s a).getLsbD 0)
  | _ => none

/-! ### Control flow -/

/-- A jump closes the loop levels whose body does not hold its target (R77). -/
def closing (pc : Nat) (f : Fetch) : Fetch :=
  { f with pc := pc, loops := f.loops.map fun l => { l with active := l.active && l.start.toNat ≤ pc && pc ≤ l.stop.toNat } }

/-- Header, target and link register of a branch (R305, R306, R327, R364). -/
def branch (i : Instr) (s : State) : Option (Hdr × Int × Option SReg) :=
  match i with
  | .br h off | .jmpRel h off => some (h, s.tile.iw.idx + off.toInt, none)
  | .jmpReg h a | .ret h a => some (h, (sx s a).toNat, none)
  | .call h link off => some (h, s.tile.iw.idx + off.toInt, some link)
  | _ => none

/-- What a branch sends to its link register: the index after its own (R306). -/
def linking (h : Hdr) (link : Option SReg) (s : State) : List Landing :=
  match link with
  | some r => [⟨lastIssue s h 1 + 1, s.tile.iw.seq, .sreg r (BitVec.ofNat 64 (s.tile.iw.idx + 1)), 0⟩]
  | none => []

/-- The chunk of the word that issues ends before the word, and the trap `r` follows its commit; where the word is the first of its
chunk the trap is next (R100, R226).  Registers, results in flight and memory are as before. -/
def EndsWith (r : TrapRec) (s t : State) : Prop :=
  t = { s with tile := t.tile } ∧ t.tile.regs = s.tile.regs ∧ t.tile.inflight = s.tile.inflight ∧ t.tile.fstop = true ∧
  match s.tile.chunkOf s.tile.iw.seq with
  | some c =>
    if s.tile.iw.seq ≤ c.first then t.tile.trap = some r ∧ t.tile.cur = none
    else t.tile.cur = some { c with count := s.tile.iw.seq - c.first, ended := true, trap := some (.trap r), exits := false, safept := none }
  | none => t.tile.trap = some r

/-- The word that issues traps precisely: TEPC and the resume word are the word itself (R224, R225). -/
def trapOf (s : State) (cause : Byte) (tval : Word) : TrapRec := ⟨cause, s.tile.iw.idx, tval, s.tile.iw.idx, false⟩

/-- No word after the one that issues has issued. -/
def NoLater (s : State) : Prop := s.tile.laterIssued = false

/-! ### Control registers -/

/-- The value of a control register by its number; none where there is no register (R78). -/
def ctlValue (s : State) (num : Nat) : Option Word :=
  let t := s.tile
  match num with
  | 0x000 => some t.regs.vshape | 0x001 => some t.regs.fpctl | 0x002 => some (t.taskflg.zeroExtend 64) | 0x003 => some t.regs.taskkey
  | 0x004 => some t.regs.sampth | 0x008 => some t.regs.accw[0] | 0x009 => some t.regs.accw[1]
  | 0x00C => some t.regs.psw[0] | 0x00D => some t.regs.psw[1] | 0x00E => some t.regs.psw[2] | 0x00F => some t.regs.psw[3]
  | 0x010 => some (s.tilexy s.tileId) | 0x011 => some (s.die (s.tileId / 128)).cyc
  | 0x014 => some ((t.tidst 0).zeroExtend 64) | 0x015 => some ((t.tidst 1).zeroExtend 64)
  | 0x016 => some ((t.tidst 2).zeroExtend 64) | 0x017 => some ((t.tidst 3).zeroExtend 64)
  | 0x018 => some (BitVec.ofNat 64 ((if t.fetch.loops[0].active then 1 else 0) + (if t.fetch.loops[1].active then 2 else 0)
      + (if t.fetch.loops[2].active then 4 else 0)))
  | 0x019 => some (match t.chunkOf t.iw.seq with
      | some c => BitVec.ofNat 64 (c.attempt + if c.solo then 8 else 0) | none => 0)
  | 0x040 => some t.tcause | 0x041 => some t.tepc | 0x042 => some t.tval | 0x043 => some t.regs.thandler
  | 0x044 => some (BitVec.ofNat 64 ((if t.priv then 1 else 0) + (if t.regs.inh then 2 else 0) + (if t.regs.wakepend then 4 else 0)))
  | 0x800 => some t.ptroot | 0x801 => some t.rgnbase | 0x802 => some t.qbase | 0x803 => some t.progbase
  | 0x804 => some (t.ctxid.zeroExtend 64) | 0x805 => some (BitVec.ofNat 64 (((s.place s.tileId).map (·.1)).getD 0))
  | 0x809 => some (t.undstat.zeroExtend 64)
  | _ => none

/-- Whether a CTLWR of a value is accepted: the register is writable and no reserved field or illegal value is written (R65, R78, R124,
R145, R157, R220, R317). -/
def ctlAccepts (num : Nat) (v : Word) : Bool :=
  match num with
  | 0x000 => fld v 63 20 == 0 && fld v 15 15 == 0 && fld v 19 16 < 8 && (shapeOf v).bytes ≤ 2048
  | 0x001 => fld v 63 22 == 0 && fld v 15 14 == 0 && fld v 7 5 == 0 && fld v 2 0 < 5
  | 0x003 | 0x801 | 0x802 | 0x803 => true
  | 0x004 => fld v 63 32 == 0 && (fld v 31 0 == 0x80000000 || fld v 31 0 ≤ 0x3F800000)
  | 0x008 | 0x009 | 0x00C | 0x00D | 0x00E | 0x00F | 0x804 => fld v 63 16 == 0
  | 0x043 => fld v 63 13 == 0
  | 0x800 => fld v 63 44 == 0 && fld v 12 0 == 0
  | _ => false

/-- The registers after a CTLWR below 0x800; flags that land in FPCTL in the same cycle are ORed in (R147). -/
def ctlWritten (num : Nat) (v : Word) (late : FFlags) (r : Regs) : Regs :=
  match num with
  | 0x000 => { r with vshape := v } | 0x001 => { r with fpctl := v ||| (late.zeroExtend 64 <<< 16) } | 0x003 => { r with taskkey := v }
  | 0x004 => { r with sampth := v } | 0x008 => { r with accw := r.accw.set 0 v } | 0x009 => { r with accw := r.accw.set 1 v }
  | 0x00C => { r with psw := r.psw.set 0 v } | 0x00D => { r with psw := r.psw.set 1 v }
  | 0x00E => { r with psw := r.psw.set 2 v } | 0x00F => { r with psw := r.psw.set 3 v }
  | 0x043 => { r with thandler := v }
  | _ => r

/-- A side effect of the word that issues joins those that its chunk holds, in program order (R94). -/
def holding (q : Nat) (e : Effect) (c : Chunk) : Chunk :=
  { c with effects := insertBy (fun a b : Nat × Effect => decide (a.1 < b.1)) (q, e) c.effects }

/-! ### Memory words -/

/-- No memory word carries an uncorrectable error and no tile has a failed bank (R245). -/
def Sound (s : State) : Prop := s.bad = [] ∧ ∀ t, (s.tileAt t).degraded = false ∧ (s.tileAt t).fbank2 = none

/-- `n` bytes at a 64-bit address lie in the tile's own slice, from offset `off` on (R101 to R103). -/
def OwnSpan (s : State) (ga : Word) (n off : Nat) : Prop :=
  s.device s.tile.ctxid (fld ga 63 52) = some .here ∧ off + n ≤ sliceBytes ∧
  ∃ sl, spaceOf (fld ga 51 0) = .flat sl off ∧ s.virt (s.tileAgent s.tileId).part sl = some s.tileId

/-- An access of a task word that takes the page formats `ok` reaches memory of this device at `pa`: the checks and the translation have
passed and left the module at `m`, the engine of the word being occupied (R130, R131). -/
def AccessAt (s : State) (h : Hdr) (e : Eng) (n : Nat) (ga : Word) (k : Nat) (use : Use) (ok : PathOk) (pa : Nat) (l : Option Leaf)
    (m : State) : Prop :=
  place (s.tileAgent s.tileId) true ga k use ok (s.occupied e n h) = (.ok (.mem pa l), m)

/-- A control window of this device (R101, R104). -/
def WindowHere (s : State) (ga : Word) : Prop := isWindow ga = true ∧ s.device s.tile.ctxid (fld ga 63 52) = some .here

/-- Nothing that a word asks of another device is under way for it, and no home holds it up (R55, R139). -/
def Rested (s : State) : Prop := s.stalled = false ∧ ∀ y ∈ s.pulled, y.used = false

/-- No other device can be reached, as no route slot is in use, and no die keeps frame records: an agent never waits (R103, R139). -/
def Alone (s : State) : Prop := s.host.slots = [] ∧ ∀ d, (s.die d).fmbase = 0

/-- An agent has asked for nothing and met no RETRY. -/
def Unasked (s : State) : Prop := s.needs = [] ∧ s.stalled = false

/-- The state in which an operation of agents begins. -/
def begun (s : State) : State := { s with needs := [], stalled := false }

/-- What an operation of agents leaves where it has waited for nothing: the words read for it are gone (R55). -/
def tried (s x : State) : State := { x with needs := s.needs, pulled := x.pulled.filter fun y => !y.used }

/-- Lines read join the read set of the open chunk (R86). -/
def reading (l : List Nat) (c : Chunk) : Chunk := { c with reads := l.foldl (fun a k => insertNat k a) c.reads }

/-- Stores join the write buffer of the open chunk, and their lines its write set (R86, R91, R93). -/
def storing (lines : List Nat) (shared : Bool) (l : List Store) (c : Chunk) : Chunk :=
  { c with stores := c.stores ++ l, writes := lines.foldl (fun a k => insertNat k a) c.writes, shared := c.shared || shared }

/-- The write set has room for the lines, or the word stands first in its chunk (R94). -/
def Room (s : State) (lines : List Nat) : Prop :=
  ∃ c, s.tile.chunkOf s.tile.iw.seq = some c ∧
    (c.first = s.tile.iw.seq ∨ (lines.foldl (fun a k => insertNat k a) c.writes).length ≤ 256)

/-- The boundary operation of the word that issues. -/
def bounding (op : BOp) (s : State) (c : Chunk) : Chunk :=
  { c with bnd := some ⟨s.tile.ident s.tileId, op, s.tile.iw.idx, s.tile.iw.seq, none, [], 0, false, false, none, s.tile.iw.before⟩ }

/-- Header and operation of a boundary word whose operands need no address check, with the condition on its operands (R307, R319, R322,
R349, R362, R377). -/
def boundaryOp (i : Instr) (s : State) : Option (Hdr × Prop × BOp) :=
  match i with
  | .fence h sc => some (h, True, .fence sc)
  | .drain h p => some (h, True, .drain p)
  | .tidw h a ch => some (h, True, .tidw a ch)
  | .nalloc h d => some (h, True, .nalloc d)
  | .cancel h d a => some (h, fld (sx s a) 63 32 = 0, .cancel d ((sx s a).extractLsb' 0 32))
  | .repri h d a b c => some (h, fld (sx s a) 63 32 = 0 ∧ fld (sx s c) 63 32 = 0,
      .repri d ((sx s a).extractLsb' 0 32) (sx s b) ((sx s c).extractLsb' 0 32))
  | _ => none

/-- Header and operation of a privileged boundary word, with the condition on its operands under which it does not trap (R261, R289,
R369, R378). -/
def privilegedOp (i : Instr) (s : State) : Option (Hdr × Prop × BOp) :=
  let desc := fun (ga : Word) => ga.toNat % 64 = 0 ∧ s.device s.tile.ctxid (fld ga 63 52) = some .here ∧
    ((∃ sl off p, spaceOf (fld ga 51 0) = .flat sl off ∧ s.flatPlace (s.tileAgent s.tileId) true sl off 64 ga = .ok p) ∨
      spaceOf (fld ga 51 0) = .paged)
  match i with
  | .route h a b => some (h, (sx s a).toNat < 1024 ∧ (sx s b).toNat % 32 = 0, .route ((sx s a).extractLsb' 0 10) (sx s b))
  | .tlbi h (.ctx a) => some (h, fld (sx s a) 63 16 = 0, .tlbi 0 ((sx s a).extractLsb' 0 16) 0)
  | .tlbi h (.page a b) => some (h, fld (sx s a) 63 16 = 0 ∧ fld (sx s b) 63 52 = 0 ∧ spaceOf (fld (sx s b) 51 0) = .paged,
      .tlbi 1 ((sx s a).extractLsb' 0 16) (sx s b))
  | .tlbi h (.table b) => some (h, fld (sx s b) 63 44 = 0 ∧ fld (sx s b) 12 0 = 0, .tlbi 2 0 (sx s b))
  | .seal h d a b => some (h, fld (sx s a) 63 32 = 0 ∧ desc (sx s b), .seal d ((sx s a).extractLsb' 0 32) (sx s b))
  | .unseal h d a b => some (h, fld (sx s a) 63 32 = 0 ∧ desc (sx s b), .unseal d ((sx s a).extractLsb' 0 32) (sx s b))
  | _ => none

/-- Header, address, bytes, use and operation of a boundary word that acts on memory (R302, R309, R324, R330, R374). -/
def memoryOp (i : Instr) (s : State) (pa : Nat) : Option (Hdr × Word × Nat × BOp) :=
  match i with
  | .lds h d a b disp => some (h, sx s a + sx s b + disp.signExtend 64, 8, .lds d pa)
  | .stf h v a b disp => some (h, sx s a + sx s b + disp.signExtend 64, 8, .stf pa (sx s v))
  | .ste h a b disp => some (h, sx s a + sx s b + disp.signExtend 64, 8, .ste pa)
  | .amo h d a b op dbl => some (h, sx s a, if dbl then 8 else 4, .amo d (sx s a) op dbl (sx s b))
  | .cas h d a b c dbl => some (h, sx s a, if dbl then 8 else 4, .cas d (sx s a) dbl (sx s b) (sx s c))
  | .fres h a b fail => some (h, sx s a, 16, .fres (sx s a) (sx s b) fail)
  | _ => none

/-- Whether a word takes flat SRAM of this device only (R102, R330, R374). -/
def flatOnly (i : Instr) : Bool := match i with | .lds .. | .stf .. | .ste .. => true | _ => false

/-- Header and far operation of a node word or RED on this device, with its condition (R350 to R352, R359). -/
def nodeOp (i : Instr) (s : State) : Option (Hdr × Word × Prop × FarKind) :=
  match i with
  | .nfree h a => some (h, sx s a, True, .nfree)
  | .nvloss h a b => some (h, sx s a, fld (sx s b) 63 16 = 0, .nvloss ((sx s b).extractLsb' 0 16))
  | .nback h a b c alt => some (h, sx s a, fld (sx s c) 63 16 = 0, .nback ((sx s c).extractLsb' 0 16) (sx s b) alt false)
  | _ => none

/-- A node reference names node `n` of this device (R207). -/
def NodeHere (s : State) (ref : Word) (n : Nat) : Prop :=
  fld ref 51 22 = 0 ∧ s.device s.tile.ctxid (fld ref 63 52) = some .here ∧ n = fld ref 21 0

/-- The nodes `n` to `n + k − 1` of one die belong to the task's context (R208, R209). -/
def OwnNodes (s : State) (n k : Nat) : Prop :=
  n % 2 ^ 20 + k ≤ 2 ^ 20 ∧ ∀ i, i < k → ∃ g, s.nodeTag (n + i) = some g ∧ g.ctx = s.tile.ctxid

/-- Byte offset, bytes and reserved bits of a node field that NST writes (R205, R209, R355). -/
def nodeField : NField → Nat × Nat
  | .n => (0, 4) | .vl => (4, 2) | .flags => (6, 2) | .w => (8, 8) | .parent => (16, 4) | .prior => (20, 2) | .depth => (22, 2)
  | .fchild => (24, 4) | .ccount => (28, 2)

/-- An access of `n` bytes from `pa` on (a page or slice, with no uncorrectable error) meets no held command of its own chunk (R110). -/
def Clear (s : State) (ga : Word) (n : Nat) : Prop := s.meetsHeld (s.span s.tile.ctxid ga n) = false

/-- An interlocked result is on its way: its value, and the cycle from which it may land, which is free but later than now (R75). -/
def loading (m : State) (d : Dest) (x : State) : State :=
  { x with free := m.free + 1, tile := { x.tile with
    loads := m.tile.loads ++ [⟨m.tile.iw.seq, m.tile.iw.idx, d, m.now + 8 + (Config.latency (m.free + 1)).toNat, none, 0⟩] } }

/-- The cells of a store of `n` whole bytes (R372). -/
def byteCells (pa n : Nat) (v : Word) : List (Nat × Byte × Byte) :=
  (List.range n).map fun i => (pa + i, 0xFF, BitVec.ofNat 8 (v.toNat / 256 ^ i))

/-- The buffered store of a word, for whom and where (R86, R93). -/
def storeOf (s : State) (r : Range) (cells : List (Nat × Byte × Byte)) (gen : Option Byte) (node : Option Nat) : Store :=
  { range := r, cells := cells, gen := gen, node := node, tile := s.tileId, ctx := s.tile.ctxid,
    region := (s.tile.ident s.tileId).region, seqNo := 0, commitNo := 0, notBefore := 0, redirected := false, upset := false }

/-- A store leaves its chunk local only in the tile's own slice and in pages private to it (R91). -/
def sharedStore (s : State) (pa : Nat) (l : Option Leaf) : Bool :=
  !(isSlice pa && sliceTile pa == s.tileId) && !(match l with | some x => x.isPrivate | none => false)

/-- A chunk younger than the word's has stored nothing yet. -/
def YoungerIdle (s : State) : Prop := ∀ c, s.tile.cur = some c → s.tile.iw.seq < c.first → c.stores = []

/-- A fresh transfer identifier of a channel: it goes to s[d], and NEXT is one more (R195). -/
def tidFor (s : State) (h : Hdr) (d : SReg) (ch : BitVec 2) : List Landing :=
  [⟨lastIssue s h 1 + 2, s.tile.iw.seq, .sreg d ((vget s.tile.regs.next ch.toNat).zeroExtend 64), 0⟩]
def taking (s : State) (ch : BitVec 2) (x : State) : State :=
  { x with tile := { x.tile with regs := { x.tile.regs with next := vset x.tile.regs.next ch.toNat (vget s.tile.regs.next ch.toNat + 1) } } }

/-- The command of a word, with what the word captured at its delivery (R94, R147). -/
def commandOf (s : State) (op : CmdOp) (follow : Option CmdOp) (ch : BitVec 2) (tid : BitVec 48) (bar : Option Word) (fut : Bool)
    (window : Word) (rd wr : List Range) : Cmd :=
  { who := s.tile.ident s.tileId, op := op, follow := follow, ch := ch, tid := tid, bar := bar, fut := fut, seq := s.tile.iw.seq,
    idx := s.tile.iw.idx, fpctl := s.tile.iw.caps.fpctl, window := window, rd := rd, wr := wr, issued := s.now, rel := 0, upset := false,
    orphan := false, copyDone := none }

/-- The operands of an MMA pass the checks of the word at issue (R185, R187, R339). -/
def MmaFits (s : State) (f : MmaF) : Prop :=
  let k := (sx s f.k).toNat
  0 < k ∧ k ≤ 4096 ∧ k % 16 = 0 ∧
  opdIllegal (s.opd f.a) true f.pair.tyA k = false ∧ opdIllegal (s.opd f.b) false f.pair.tyB k = false ∧
  opdMisaligned (s.opd f.a) = none ∧ opdMisaligned (s.opd f.b) = none ∧
  s.opdPlace (s.opd f.a) true f.pair.tyA k = none ∧ s.opdPlace (s.opd f.b) false f.pair.tyB k = none

/-- The operation of an MMA with its operands as they stand. -/
def mmaOp (s : State) (f : MmaF) : CmdOp := .mma f.acc (s.opd f.a) (s.opd f.b) (sx s f.k).toNat f.pair f.zero f.twin

/-- The window register of an accumulator as captured. -/
def windowOf (s : State) (acc : Bool) : Word := if acc then s.tile.iw.caps.accw[1] else s.tile.iw.caps.accw[0]

/-- Source, destination, length, barrier and path of a COPY pass the checks of the word at issue (R196 to R198). -/
def CopyFits (s : State) (f : CopyF) : Prop :=
  let dst := sx s f.dst
  let src := sx s f.src
  let n := fld (sx s f.len) 39 0 * pathBytes f.path
  fld (sx s f.len) 63 40 = 0 ∧ (s.isAway dst = false ∨ s.isAway src = false) ∧ s.badDevice src = false ∧ s.badDevice dst = false ∧
  s.sideBad false src n = none ∧ s.sideBad false dst n = none ∧
  s.barrierBad (if f.bar = 0 then none else some (sx s f.bar)) f.fut = none ∧
  ∀ ga ∈ [src, dst], isFlatAddr ga = true → ga.toNat % pathBytes f.path = 0

/-- The command of a COPY or COPYM. -/
def copyCmd (s : State) (f : CopyF) (follow : Option CmdOp) (window : Word) (more : List Range) : Cmd :=
  commandOf s (.copy (sx s f.dst) (sx s f.src) (fld (sx s f.len) 39 0) f.path) follow f.ch (vget s.tile.regs.next f.ch.toNat)
    (if f.bar = 0 then none else some (sx s f.bar)) f.fut window
    (s.copyRead f.path (sx s f.src) (fld (sx s f.len) 39 0) ++ more) (s.copyWrite f.path (sx s f.dst) (fld (sx s f.len) 39 0))

/-- The indices of GATH and SCAT: the elements of an INT32 vector as signed numbers (R325). -/
def indices (s : State) (f : GathF) : List Int :=
  (List.range s.shape.n).map fun m => ((BitVec.ofNat 32 (elemAt (s.tile.vecAt f.idx.toNat s.now) .i32 m)).toInt)

/-- Base addresses, elements and barrier of GATH (or SCAT) pass the checks of the word at issue (R326). -/
def GatherFits (s : State) (f : GathF) (scat : Bool) : Prop :=
  let n := gsizeBytes f.size
  let lin : List Int := (List.range s.shape.n).map fun (m : Nat) => (m : Int)
  let bar := if f.bar = 0 then none else some (sx s f.bar)
  s.shape.ty = .i32 ∧ (sx s f.src).toNat % n = 0 ∧ (sx s f.dst).toNat % n = 0 ∧
  (∀ b, bar = some b → b.toNat % (if f.fut then 16 else 8) = 0) ∧ s.barrierBad bar f.fut = none ∧
  (∀ m ∈ (if scat then lin else indices s f), s.elemBad (sx s f.src) (m * n) n = none) ∧
  (∀ m ∈ (if scat then indices s f else lin), s.elemBad (sx s f.dst) (m * n) n = none) ∧
  (s.isAway (sx s f.dst) = false ∨ s.isAway (sx s f.src) = false) ∧ s.badDevice (sx s f.src) = false ∧ s.badDevice (sx s f.dst) = false

/-- The command of a GATH or SCAT: the footprint of its indexed side runs from the least to the greatest element (R325). -/
def gatherCmd (s : State) (f : GathF) (scat : Bool) : Cmd :=
  let n := gsizeBytes f.size
  let lin := fun (base : Word) => s.span s.tile.ctxid base (s.shape.n * n)
  let ind := fun (base : Word) => s.idxRange base (indices s f) n
  commandOf s (if scat then .scat (sx s f.dst) (sx s f.src) (indices s f) n else .gath (sx s f.dst) (sx s f.src) (indices s f) n) none f.ch
    (vget s.tile.regs.next f.ch.toNat) (if f.bar = 0 then none else some (sx s f.bar)) f.fut 0
    [if scat then lin (sx s f.src) else ind (sx s f.src)] [if scat then ind (sx s f.dst) else lin (sx s f.dst)]

/-- Header and command of a matrix word, with the condition on its operands (R336, R338, R343, R345, R348). -/
def matrixCmd (i : Instr) (s : State) : Option (Hdr × Prop × Cmd) :=
  let plain := fun (op : CmdOp) (acc : Bool) (rd wr : List Range) => commandOf s op none 0 0 none false (windowOf s acc) rd wr
  match i with
  | .mma h f => some (h, MmaFits s f, plain (mmaOp s f) f.acc (s.mmaRanges f (s.opd f.a) (s.opd f.b) (sx s f.k).toNat) [])
  | .mzero h acc => some (h, True, plain (.mzero acc) acc [] [])
  | .mdrain h acc vd ty rm => some (h, True, plain (.mdrain acc vd ty rm) acc [] [])
  | .mtile h acc => some (h, True, plain (.mtile acc) acc [] [])
  | .mstore h acc a b ty rm =>
    let base := sx s a
    let rp := fld (sx s b) 19 0
    let n := 127 * rp + outRow ty
    some (h, fld (sx s b) 63 20 = 0 ∧ base.toNat % 32 = 0 ∧ rp % 32 = 0 ∧ s.device s.tile.ctxid (fld base 63 52) = some .here ∧
      ((spaceOf (fld base 51 0) = .paged ∧ fld base 51 0 + n ≤ 2 ^ 52) ∨
        ∃ sl off p, spaceOf (fld base 51 0) = .flat sl off ∧ s.flatPlace (s.tileAgent s.tileId) false sl off n base = .ok p),
      plain (.mstore acc base rp ty rm) acc [] [s.span s.tile.ctxid base n])
  | _ => none

/-! ### Vector words -/

/-- The results that a word has sent: those added to the results in flight, and the first copies of those added to the votes. -/
def sent (s t : State) : List Landing :=
  t.tile.inflight.drop s.tile.inflight.length ++ (t.tile.votes.drop s.tile.votes.length).map (·.a)

/-- The word has sent results, with the vote bit as three copies each, and done nothing else, but that its flags are recorded with its
chunk for an exception (R74, R152, R166). -/
def SendsMany (h : Hdr) (s t : State) : Prop :=
  (∃ l vs, t.tile.inflight = s.tile.inflight ++ l ∧ t.tile.votes = s.tile.votes ++ vs ∧ (h.v = true → l = []) ∧
    (h.v = false → vs = []) ∧ ∀ x ∈ vs, x.b.cyc = x.a.cyc ∧ x.c.cyc = x.a.cyc) ∧
  (∀ l ∈ sent s t, l.seq = s.tile.iw.seq) ∧
  QuietBy bareExc { s with tile := { s.tile with inflight := t.tile.inflight, votes := t.tile.votes } } t ∧
  ((∀ l ∈ sent s t, l.flags = 0) →
    t.tile.cur.map bare = s.tile.cur.map bare ∧ t.tile.older.map bare = s.tile.older.map bare)

/-- A vector register after the results of a list have landed in it. -/
def vecAfter (l : List Landing) (r : VReg) (x : BitVec 16384) : BitVec 16384 :=
  l.foldl (fun x e => match e.dest with | .vec d v en => if d = r then (x &&& ~~~en) ||| (v &&& en) else x | _ => x) x

/-- The captured shape is one that VSHAPE can hold (R65). -/
def ShapeLegal (s : State) : Prop := s.shape.bytes ≤ 2048

/-- The word's type field is 0xF or names the captured type (R169). -/
def TypeOk (s : State) (ty : Option ETy) : Bool := ty == none || ty == some s.shape.ty

/-- Whether the mask lets element `e` through: bit c of the mask governs column c (R67). -/
def live (s : State) (m : MReg) (e : Nat) : Bool := (s.tile.maskAt m.toNat s.now).getLsbD (e % s.shape.cols)

/-- Element `e` of a source under the captured type, as its own group reads it: group g of a word reads its operands g cycles after the
issue (R74, R381). -/
def operand (s : State) (r : VReg) (e : Nat) : Nat :=
  elemAt (s.tile.vecAt r.toNat (s.now + e / (4096 / s.shape.ty.place))) s.shape.ty e

/-- A per-group result in v[d] of elements of type `dty`: element e takes its value where there is one and keeps its own where there is
none; the elements of group g land together g + lat cycles after the last issue, with the union of their flags (R74, R381, R385). -/
def LandsByGroup (h : Hdr) (lat : Nat) (vd : VReg) (dty : ETy) (val : Nat → Option (Nat × FFlags)) (s t : State) : Prop :=
  SendsMany h s t ∧
  (∀ l ∈ sent s t, ∃ g x en, g < s.shape.groups ∧ l.dest = .vec vd x en ∧ l.cyc = lastIssue s h s.shape.groups + g + lat ∧
    l.flags = orAll ((groupElems s.shape g).filterMap fun e => (val e).map (·.2)) ∧
    ∀ e, e < s.shape.n → ((val e).isNone ∨ e / (4096 / s.shape.ty.place) ≠ g) → elemAt en dty e = 0) ∧
  ∀ x e, e < s.shape.n → elemAt (vecAfter (sent s t) vd x) dty e = match val e with
    | some v => v.1 % 2 ^ dty.width
    | none => elemAt x dty e

/-- The operation, header and fields of an element-wise word (R384, R387). -/
def elementwise (i : Instr) : Option (EOp × Hdr × VF) :=
  match i with
  | .vadd h f => some (.add, h, f) | .vsub h f => some (.sub, h, f) | .vmul h f => some (.mul, h, f) | .vfma h f => some (.fma, h, f)
  | .vmin h f => some (.min, h, f) | .vmax h f => some (.max, h, f) | .vdiv h f => some (.div, h, f) | .vabs h f => some (.abs, h, f)
  | .vneg h f => some (.neg, h, f) | .vsqrt h f => some (.sqrt, h, f) | .vrcp h f => some (.rcp, h, f) | .vrsq h f => some (.rsq, h, f)
  | .vexp2 h f => some (.exp2, h, f) | .vlog2 h f => some (.log2, h, f) | .vtanh h f => some (.tanh, h, f)
  | .vsigm h f => some (.sigm, h, f) | .vand h f => some (.and, h, f) | .vor h f => some (.or, h, f) | .vxor h f => some (.xor, h, f)
  | .vshl h f => some (.shl, h, f) | .vshr h f => some (.shr, h, f)
  | _ => none

/-- Whether an operation takes a type (R384). -/
def takesType (op : EOp) (t : ETy) : Bool :=
  let float := t == .f32 || t == .bf16
  let int := t == .i8 || t == .i32
  match op with
  | .and | .or | .xor => true
  | .shl | .shr => int
  | .div | .sqrt | .rcp | .rsq | .exp2 | .log2 | .tanh | .sigm => float
  | _ => float || int

/-- Latency of an element-wise word (R74, R384). -/
def latencyOf (op : EOp) : Nat :=
  match op with
  | .and | .or | .xor | .shl | .shr => 2
  | .rcp | .rsq | .exp2 | .log2 | .tanh | .sigm => 12
  | .div | .sqrt => 16
  | _ => 4

/-- Header, type field, latency, destination, its type, legality and elements of the other per-group words (R388, R390, R391, R404,
R407). -/
def perGroupWord (i : Instr) (s : State) : Option (Hdr × Option ETy × Nat × VReg × ETy × Bool × (Nat → Option (Nat × FFlags))) :=
  let t := s.shape.ty
  let when_ := fun (m : MReg) (f : Nat → Nat × FFlags) (e : Nat) => if live s m e then some (f e) else none
  match i with
  | .vbcast h vd r m ty => some (h, ty, 2, vd, t, true, when_ m fun _ => ((s.tile.regs.sreg r.toNat).toNat, 0))
  | .viota h vd m ty => some (h, ty, 2, vd, t, t == .f32 || t == .bf16 || t == .i8 || t == .i32, when_ m fun e =>
      if t == .i8 || t == .i32 then (e, 0) else roundTo t (fpRm s.fpc) (fpFoz s.fpc) (FVal.ofInt e))
  | .vsel h vd va vb ms m ty => some (h, ty, 2, vd, t, true, when_ m fun e => if live s ms e then (operand s va e, 0) else (operand s vb e, 0))
  | .vcvt h vd va m dty => some (h, none, 6, vd, dty, dty != t && bytesOf dty s.shape.n ≤ 2048, when_ m fun e =>
      let x := inValue t (fpFiz s.fpc) (operand s va e)
      let r := roundTo dty (fpRm s.fpc) (fpFoz s.fpc) x.1
      (r.1, r.2 ||| x.2))
  | .vrng h vd r m ty => some (h, ty, 6, vd, t, true, when_ m fun e =>
      (elemAt (BitVec.ofNat 16384 (philoxBytes (s.tile.regs.sreg r.toNat) s.tile.iw.caps.taskkey s.shape.bytes)) t e, 0))
  | _ => none

/-- What a whole-tile word sends, in order: each result lands `lat` cycles after the last cycle of the word (R74). -/
def SendsWhole (h : Hdr) (occ lat : Nat) (l : List (Dest × FFlags)) (s t : State) : Prop :=
  SendsMany h s t ∧ sent s t = l.map fun x => ⟨lastIssue s h occ + (occ - 1) + lat, s.tile.iw.seq, x.1, x.2⟩

/-- v[d] after a whole-tile move: element e takes element `src e` of `va`, or zero where there is none, for those that `on` selects, and
keeps its own elsewhere. -/
def Moves (s : State) (va vd : VReg) (n : Nat) (on : Nat → Bool) (src : Nat → Option Nat) (t : State) : Prop :=
  ∀ x e, e < n → elemAt (vecAfter (sent s t) vd x) s.shape.ty e =
    if on e then (match src e with | some k => operand s va k | none => 0) else elemAt x s.shape.ty e

/-- The value of an element of a block as VQUANT reads it (R402). -/
def blockValues (s : State) (va : VReg) (b k : Nat) : List FVal :=
  (List.range b).map fun p => (inValue s.shape.ty (fpFiz s.fpc) (operand s va (k * b + p))).1

/-- Whether VSELK and VSHORT take the captured shape and the list (R215, R216, R219). -/
def listFits (s : State) (vd : VReg) : Bool :=
  (s.shape.ty == .f32 || s.shape.ty == .bf16) && s.shape.n ≤ 512 && (listOf (s.tile.vecAt vd.toNat s.now)).count ≤ 64

/-- The window of a latch as captured. -/
def latchLsb (s : State) (n : LReg) : Int := lsbExp (vget s.tile.iw.caps.psw n.toNat)

/-- The runs of a vector load or store: how many, where each begins, and its elements (R392). -/
def runCount (s : State) (strided : Bool) : Nat := if strided then s.shape.rows else 1
def runAddr (s : State) (f : VMemF) (r : Nat) : Word :=
  s.tile.regs.sreg f.base.toNat + f.disp.signExtend 64 <<< 6 + BitVec.ofNat 64 r * s.tile.regs.sreg f.stride.toNat
def runLength (s : State) (strided : Bool) : Nat := if strided then s.shape.cols else s.shape.n

/-- Bytes of a run in memory, raw (R66). -/
def runSize (s : State) (strided : Bool) : Nat := (runLength s strided * s.shape.ty.place + 7) / 8

/-- Every run of a vector word of the captured type lies, aligned, in the tile's own slice, run r from offset `off r` on; no error and no held
command is met (R395, R110). -/
def RunsInOwnSlice (s : State) (f : VMemF) (strided : Bool) (off : Nat → Nat) : Prop :=
  ShapeLegal s ∧ TypeOk s f.ty ∧ Sound s ∧ Rested s ∧ (runAddr s f 0).toNat % 64 = 0 ∧
  (strided = true → (s.tile.regs.sreg f.stride.toNat).toNat % 64 = 0) ∧
  ∀ r, r < runCount s strided → OwnSpan s (runAddr s f r) (runSize s strided) (off r) ∧
    Clear s (runAddr s f r) (runSize s strided)

/-- The run of an element, the address of the byte that holds its first bit, and that bit's number in it (R66, R392). -/
def runOf (s : State) (strided : Bool) (e : Nat) : Nat := e / runLength s strided
def elemByte (s : State) (strided : Bool) (off : Nat → Nat) (e : Nat) : Nat :=
  sliceBase s.tileId + off (runOf s strided e) + e % runLength s strided * s.shape.ty.place / 8
def elemBit (s : State) (strided : Bool) (e : Nat) : Nat := e % runLength s strided * s.shape.ty.place % 8

/-- An element as memory holds it for a core of the tile. -/
def elemBits (x s : State) (strided : Bool) (off : Nat → Nat) (e : Nat) : Nat :=
  x.coreRead (elemByte s strided off e) ((s.shape.ty.place + 7) / 8) / 2 ^ elemBit s strided e % 2 ^ s.shape.ty.place

/-- Two runs have no byte in common. -/
def Apart (s : State) (strided : Bool) (off : Nat → Nat) (r q : Nat) : Prop :=
  off r + runSize s strided ≤ off q ∨ off q + runSize s strided ≤ off r

/-- Lines of all runs, and room for any of them in the write set (R94). -/
def runLines (s : State) (strided : Bool) (off : Nat → Nat) : List Nat :=
  (List.range (runCount s strided)).flatMap fun r => lineKeys (sliceBase s.tileId + off r) (runSize s strided)
def RoomForAny (s : State) (lines : List Nat) : Prop :=
  ∃ c, s.tile.chunkOf s.tile.iw.seq = some c ∧
    (c.first = s.tile.iw.seq ∨ ∀ l : List Nat, (∀ k ∈ l, k ∈ lines) → (l.foldl (fun a k => insertNat k a) c.writes).length ≤ 256)

/-- The words of a successor block (R21). -/
def blockWords (s : State) (pa : Nat) : List Word := (List.range 8).map fun i => BitVec.ofNat 64 (s.coreRead (pa + 8 * i) 8)

/-- EXIT's address `j` (R320). -/
def exitAddr (s : State) (a : SReg) (j : Nat) : Word := s.tile.regs.sreg (a.toNat + j)

/-! ### Steps of other agents -/

/-- The boundary word of a tile has been performed; its wait is over, and a value that it returns is on its way under the interlock
(R75, R82, R242). -/
def performed (t : Nat) (v : Option (SReg × Word)) (b : Bnd) (s : State) : State :=
  s.modTile t fun x => { x with
    bnd := none
    wake := true
    loads := match v with | some (d, w) => x.loads ++ [⟨b.seq, b.idx, .sreg d w, s.now, none, 0⟩] | none => x.loads }

/-- The accumulator that a command names. -/
def accOf (x : Tile) (a : Bool) : Acc := vget x.acc a.toNat

/-- The event in which a matrix command runs. -/
def matrixEvent (o : CmdOp) (t : TileNo) : Option Instr :=
  match o with
  | .mma .. => some (.mmaExecute t) | .mzero _ => some (.mzeroExecute t) | .mtile _ => some (.mtileExecute t)
  | .mdrain .. => some (.mdrainExecute t) | .mstore .. => some (.mstoreExecute t)
  | _ => none

/-- Registers of R62, R140, R253, R281 and R297 that hold what the owner stores and do nothing else: offset in the windows, and the bits
that they hold. -/
def plainRegs : List (Nat × Word) :=
  let all := BitVec.allOnes 64
  ((List.range 4).flatMap fun d =>
    [(0x00008, all), (0x00010, 0xFFFFFFFF00000000), (0x00018, 0xFFFFFFFF00000001), (0x10010, all), (0x10018, 0xFFFFFFFFFFFF0000), (0x10020, all),
      (0x10028, all), (0x10048, all), (0x10050, 0xFFF00FFFFFFF0000), (0x30000, all)].map fun e => (d * 0x10000000 + e.1, e.2))
    ++ [(0x40000008, all), (0x40000010, all), (0x40000018, all), (0x40020200, all)]

/-- A slot image with the eight bytes at `o` replaced by those of a word. -/
def slotWith (l : List Byte) (o : Nat) (v : Word) : List Byte :=
  (List.range 32).map fun i => if o ≤ i && i < o + 8 then v.extractLsb' (8 * (i - o)) 8 else l.getD i 0

/-- The writer is the owner (R279). -/
def Owns (s : State) (who : Writer) : Prop := s.host.isOwner (s.byOf who).kind (s.byOf who).dev = true

/-- A host-side access has been answered. -/
def answered (a : HostAns) (s : State) : State := { s with host := { s.host with answer := a } }

/-- Bytes of an access of the map that are not memory read as zero (R275). -/
def mapByte (s : State) (a : Nat) : Byte := if mapSpot a = .memory then BitVec.ofNat 8 (s.home a 1) else 0

/-- The event in which a request that has come in is served (R265). -/
def fabricEvent (p : Packet) : Option Instr :=
  match p.kind with
  | 1 => some .fabricLoad
  | 2 => some (if p.opc / 32 = 2 then .fabricNst else .fabricStore)
  | 3 => some (if p.opc / 32 = 1 then .fabricNfree else .fabricRed)
  | 4 => some .fabricAmo
  | 5 => some .fabricCas
  | 6 => some .fabricWalk
  | 7 => some .fabricCopydata
  | 10 => some .fabricProbe
  | _ => none

/-- Words from the reference entries of spec/, each with the instruction that it stands for. -/
def spelled : List (Word × Instr) := [
  (0x0000201821000000, .add Hdr.plain 3 1 2), (0x0084206140000001, .addImm ⟨false, 4, 0, false⟩ 12 10 1),
  (0x0002201820000000, .popc Hdr.plain 3 1), (0x00A0000000000000, .nop 5), (0x0007002C4D5E6F79, .li Hdr.plain 5 0x89ABCDEF true),
  (0x00080407FFFFFFE8, .br ⟨false, 0, 1, false⟩ (-3)), (0x0009200120000005, .waite Hdr.plain 9 5),
  (0x004A0E50217FFF8A, .ld ⟨false, 2, 3, true⟩ 10 1 2 .w true (-8)), (0x000B2050828C0001, .cas Hdr.plain 10 4 5 6 true),
  (0x000CA00145800003, .nst Hdr.plain 10 11 .w), (0x000E006145924281, .copy Hdr.plain ⟨12, 10, 11, 9, 8, 1, .bf16, true⟩),
  (0x000F015161938000, .mma Hdr.plain ⟨true, .pad 20, .pad 22, 6, .e2m1e4m3, true, false⟩), (0x000F414000002800, .mdrain Hdr.plain true 16 .f32 .dyn),
  (0x8011603088600000, .vfma ⟨true, 0, 0, false⟩ ⟨3, 1, 2, 3, 0, some .f32, false⟩), (0x0013003088000800, .vcmp Hdr.plain 3 1 2 0 (some .f32) .lt),
  (0x00100011000003FF, .vld Hdr.plain ⟨1, 2, 0, 0, some .f32, -1⟩), (0x0014E04124800003, .vselk Hdr.plain 4 2 9 0 1 3 0 (some .f32)),
  (0x0018800082800001, .tlbi Hdr.plain (.page 4 5)), (0x0018A05166000000, .seal Hdr.plain 10 11 12)]

/-- A queued word as it issues in a step: it is the tile's word, it has left the queue, and delivery in the cycle is over (R70); its chunk
notes the first of its words that has waited (R85). -/
def issuing (q : QEntry) (s : State) : State := { s with tile := s.tile.takeUp q s.now }

/-- What a step adds behind the word: one that has to be sent again is in its queue as before (R139), as is one that has asked for a word
of another device, of which nothing else has happened (R55). -/
def afterIssue (q : QEntry) (s t : State) : State :=
  if s.asked t then { issuing q s with needs := t.needs, tile := { (issuing q s).tile with queue := s.tile.queue, retry := true } }
  else { t with tile := if t.tile.retry then { t.tile with queue := s.tile.queue } else { t.tile with retry := s.tile.retry } }

end Sys2Proof.Spec

open Sys2Proof Sys2Proof.Machine Sys2Proof.Spec

/-- The arithmetic, logic and shift words put their result, as R300, R318, R347, R356, R368, R376 and R415 give it, on its way to s[d]
with latency 1, 3 (MUL, MULH) or 20 (DIV, REM); S is occupied for one cycle (three with V) and nothing else happens. -/
def Obligations.ScalarArithmeticSendsItsResult : Prop :=
  ∀ (i : Instr) (s : State) (h : Hdr) (d : SReg) (lat : Nat) (v : Word),
    arith i s = some (h, d, lat, v) → guardOf h s.tile.regs = true →
    ∃ t, exec i s = .next t ∧
      Sends h .S (span h 1) [⟨lastIssue s h 1 + lat, s.tile.iw.seq, .sreg d v, 0⟩] id s t

/-- MIN, MAX, SEL, POPC, CLZ, BFX, BFI, LEA, MOV, LI and LIH put the one word that meets their rule on its way to s[d] with latency 1; CMP and
MOV to a predicate put their outcome on its way to p[N]. -/
def Obligations.ScalarSelectionSendsItsResult : Prop :=
  (∀ (i : Instr) (s : State) (h : Hdr) (d : SReg) (r : Word → Prop),
    pickWord i s = some (h, d, r) → guardOf h s.tile.regs = true →
    ∃ v t, r v ∧ (∀ w, r w → w = v) ∧ exec i s = .next t ∧
      Sends h .S (span h 1) [⟨lastIssue s h 1 + 1, s.tile.iw.seq, .sreg d v, 0⟩] id s t) ∧
  (∀ (i : Instr) (s : State) (h : Hdr) (p : PReg) (b : Bool),
    predicate i s = some (h, p, b) → guardOf h s.tile.regs = true →
    ∃ t, exec i s = .next t ∧
      Sends h .S (span h 1) [⟨lastIssue s h 1 + 1, s.tile.iw.seq, .pred p b, 0⟩] id s t)

/-- A word whose guard does not hold issues and does nothing: no operand is checked, no register, flag or byte changes, and no
exception is taken (R68). -/
def Obligations.GuardedOffWordOnlyIssues : Prop :=
  ∀ (i : Instr) (s : State) (h : Hdr), i.hdr = some h → guardOf h s.tile.regs = false →
    ∃ t, exec i s = .next t ∧ t.tile.lastIssue = s.now ∧ Quiet s t

/-- NOP, CHUNK and PREF have no effect beyond their issue on S or A, and ALIGN none but that every engine's next word counts its delay
from now.  Rests on the model's choices of log 8 and 35. -/
def Obligations.HintsHaveNoEffect : Prop :=
  (∀ d s, ∃ t, exec (.nop d) s = .next t ∧ Does .S 1 id s t) ∧
  (∀ h s, guardOf h s.tile.regs = true → ∃ t, exec (.chunk h) s = .next t ∧ Does .S (span h 1) id s t) ∧
  (∀ h a b disp s, guardOf h s.tile.regs = true → ∃ t, exec (.pref h a b disp) s = .next t ∧ Does .A (span h 1) id s t) ∧
  (∀ h s, guardOf h s.tile.regs = true → ∃ t, exec (.align h) s = .next t ∧ Quiet s t ∧ t.tile.lastIssue = s.now ∧
    ∀ e, t.tile.occ.get e = s.now)

/-- BR, JMP, CALL and RET move fetch to their target, which closes the loop levels it leaves; delivery goes on in the next cycle, and
CALL sends the index after its own to its link register.  A target outside the 8,192 words is ILLEGAL. -/
def Obligations.BranchMovesFetch : Prop :=
  ∀ (i : Instr) (s : State) (h : Hdr) (target : Int) (link : Option SReg),
    branch i s = some (h, target, link) → guardOf h s.tile.regs = true →
    if 0 ≤ target ∧ target < 8192 then
      ∃ t, exec i s = .next t ∧
        Sends h .S (span h 1) (linking h link s) (fetching (closing target.toNat)) s t ∧
        t.tile.fstop = false ∧ t.tile.fresume = s.now + 1
    else exec i s = .next (s.resumeFetch.preciseTrap causeIllegal s.tile.iw.raw)

/-- LOOP opens its level over the words that follow, or passes over them when its count is zero; on a level already open, or with a body
that does not lie within every open level, it is ILLEGAL. -/
def Obligations.LoopOpensItsLevel : Prop :=
  ∀ (h : Hdr) (n : LoopN) (c : LCount) (e : BitVec 9) (s : State), guardOf h s.tile.regs = true →
    let k : Fin 3 := match n with | .lc0 => 0 | .lc1 => 1 | .lc2 => 2
    let count : BitVec 32 := match c with | .reg r => (sx s r).extractLsb' 0 32 | .imm i => i.zeroExtend 32
    let first := s.tile.iw.idx + 1
    let last := s.tile.iw.idx + e.toNat
    if s.tile.fetch.loops[k].active = true ∨
        ∃ j : Fin 3, s.tile.fetch.loops[j].active = true ∧ (first < s.tile.fetch.loops[j].start.toNat ∨ s.tile.fetch.loops[j].stop.toNat < last)
    then exec (.loop h n c e) s = .next (s.resumeFetch.preciseTrap causeIllegal s.tile.iw.raw)
    else
      ∃ t, exec (.loop h n c e) s = .next t ∧ t.tile.fstop = false ∧ t.tile.fresume = s.now + 1 ∧
        Does .S (span h 1) (fetching fun f =>
          if count = 0 then closing (last + 1) f
          else { f with pc := first, lc := f.lc.set k count,
                        loops := f.loops.set k ⟨true, BitVec.ofNat 13 first, BitVec.ofNat 13 last⟩ }) s t

/-- A precise trap ends the chunk before the word that issues; where a later word of the chunk has issued already, the open chunks from
that one on are discarded, and it is executed again up to the word.  TRAP does so with USER: TVAL is its code and the task resumes after
it. -/
def Obligations.PreciseTrapEndsTheChunkBeforeTheWord : Prop :=
  (∀ (s : State) (cause : Byte) (tval : Word),
    (NoLater s → EndsWith (trapOf s cause tval) s (s.preciseTrap cause tval)) ∧
    (∀ c x, ¬ NoLater s → s.tile.chunkOf s.tile.iw.seq = some c → c.start = some x → c.first < s.tile.iw.seq →
      (s.preciseTrap cause tval).tile.regs = x.regs ∧ (s.preciseTrap cause tval).tile.fetch = c.fetch ∧
      ∃ d, (s.preciseTrap cause tval).tile.cur = some d ∧ d.count = 0 ∧
        d.stores = [] ∧ d.effects = [] ∧ d.reads = [] ∧ d.writes = [] ∧ d.attempt = c.attempt ∧
        d.stopAt = some (s.tile.iw.seq - c.first))) ∧
  (∀ (h : Hdr) (code : BitVec 16) (s : State), guardOf h s.tile.regs = true → NoLater s →
    ∃ t, exec (.trap h code) s = .next t ∧
      EndsWith ⟨causeUser, s.tile.iw.idx, code.zeroExtend 64, s.tile.iw.idx + 1, false⟩ s t)

/-- SAFEPT with a legal live map marks its chunk for a save when a request is pending and a slot is free, and otherwise has no effect; a
map that does not lie in the program, saves m0's bit, or has reserved bits set is ILLEGAL. -/
def Obligations.SafeptMarksItsChunk : Prop :=
  ∀ (h : Hdr) (m : BitVec 13) (s : State), guardOf h s.tile.regs = true →
    let w0 := s.tile.progWord m.toNat
    let w1 := s.tile.progWord (m.toNat + 1)
    if m.toNat + 1 < s.tile.words ∧ w0.getLsbD 0 = false ∧ fld w1 63 49 = 0 then
      ∃ t, exec (.safept h m) s = .next t ∧
        Does .S (span h 1) (if s.tile.preq.isSome ∧ 0 < (s.die (s.tileId / 128)).freeSlots
          then marking fun c => { c with safept := some m.toNat } else id) s t
    else exec (.safept h m) s = .next (s.preciseTrap causeIllegal s.tile.iw.raw)

/-- WAITE takes a pending wake and goes on, goes on when its deadline has passed, and otherwise begins to wait with the watermarks as
they stand. -/
def Obligations.WaiteWaitsForItsEvent : Prop :=
  ∀ (h : Hdr) (a : SReg) (mask : BitVec 3) (s : State), guardOf h s.tile.regs = true →
    ∃ t, exec (.waite h a mask) s = .next t ∧ Does .S (span h 1) (fun x =>
      if s.tile.regs.wakepend then { x with tile := { x.tile with regs := { x.tile.regs with wakepend := false } } }
      else if mask.getLsbD 0 ∧ sx s a ≤ (s.die (s.tileId / 128)).cyc then x
      else { x with tile := { x.tile with
        waite := some (s.tile.iw.seq, sx s a, mask, #v[s.tile.tidst 0, s.tile.tidst 1, s.tile.tidst 2, s.tile.tidst 3]), waited := false } }) s t

/-- RTE outside a handler is ILLEGAL; in a handler with a well-formed frame it restores the registers, the program counter and FPCTL from
the frame of the tile's slice, leaves the vector registers and memory, and clears INH.  Rests on the model's choices of log 34. -/
def Obligations.RteRestoresTheFrame : Prop :=
  ∀ (h : Hdr) (s : State), guardOf h s.tile.regs = true →
    (s.tile.regs.inh = false → exec (.rte h) s = .next (s.resumeFetch.preciseTrap causeIllegal s.tile.iw.raw)) ∧
    (s.tile.regs.inh = true →
      let m := s.resumeFetch.occupied .S 1 h
      let w := fun o => BitVec.ofNat 64 (s.coreRead (sliceBase s.tileId + frameOff + o) 8)
      match readFrame m (sliceBase s.tileId + frameOff) s.tile.regs with
      | none => exec (.rte h) s = .next (s.resumeFetch.preciseTrap causeIllegal s.tile.iw.raw)
      | some _ => ∃ t, exec (.rte h) s = .next t ∧ t = { s with tile := t.tile } ∧ t.tile.regs.inh = false ∧
          (∀ r, 0 < r → r < 64 → t.tile.regs.sreg r = w (0x100 + 8 * r)) ∧ t.tile.regs.v = s.tile.regs.v ∧
          t.tile.fetch.pc = fld (w 8) 44 32 ∧ t.tile.regs.fpctl = w 0x60 ∧ t.tile.regs.vshape = w 0x68 ∧ t.tile.regs.taskkey = w 0x70 ∧
          t.tile.acc = s.tile.acc ∧ t.tile.fstop = false ∧ t.tile.fresume = s.now + 1 ∧
          (∀ l ∈ s.tile.inflight, l ∈ t.tile.inflight) ∧ ∀ a, t.coreRead a 1 = s.coreRead a 1)

/-- CTLRD sends the register's value to s[d] with latency 2; a number from 0x800 up without PRIV is PRIVILEGE, and a number of no register
is ILLEGAL. -/
def Obligations.CtlrdReadsTheRegister : Prop :=
  ∀ (h : Hdr) (d : SReg) (num : BitVec 12) (s : State), guardOf h s.tile.regs = true →
    if 0x800 ≤ num.toNat ∧ s.tile.priv = false then exec (.ctlrd h d num) s = .next (s.preciseTrap causePrivilege s.tile.iw.raw)
    else match ctlValue s num.toNat with
      | none => exec (.ctlrd h d num) s = .next (s.preciseTrap causeIllegal s.tile.iw.raw)
      | some v => ∃ t, exec (.ctlrd h d num) s = .next t ∧
          Sends h .S (span h 1) [⟨lastIssue s h 1 + 2, s.tile.iw.seq, .sreg d v, 0⟩] id s t

/-- CTLWR of an accepted value writes a register below 0x800 at once and one from 0x800 up at its chunk's commit; without PRIV the latter
is PRIVILEGE, and a value or register that is not accepted is ILLEGAL and leaves the register. -/
def Obligations.CtlwrWritesTheRegister : Prop :=
  ∀ (h : Hdr) (a : SReg) (num : BitVec 12) (s : State), guardOf h s.tile.regs = true →
    let s0 := if num.toNat ∈ [0x000, 0x001, 0x003, 0x004, 0x008, 0x009, 0x00C, 0x00D, 0x00E, 0x00F] then s.resumeFetch else s
    if 0x800 ≤ num.toNat ∧ s.tile.priv = false then exec (.ctlwr h a num) s = .next (s0.preciseTrap causePrivilege s.tile.iw.raw)
    else if ctlAccepts num.toNat (sx s a) then
      ∃ t, exec (.ctlwr h a num) s = .next t ∧ Does .S (span h 1) (fun x =>
        if 0x800 ≤ num.toNat then marking (holding s.tile.iw.seq (.ctl num (sx s a))) x
        else { x with tile := { x.tile with
          regs := ctlWritten num.toNat (sx s a) (if s.tile.landFlags.1 = s.now then s.tile.landFlags.2 else 0) x.tile.regs } }) s t
    else exec (.ctlwr h a num) s = .next (s0.preciseTrap causeIllegal s.tile.iw.raw)

/-- A flat address reaches its tile's slice without translation: memory of the slice where the bytes lie in it and, for another tile's
trap-frame area, the task is privileged; PAGE_PERM otherwise. -/
def Obligations.FlatAddressReachesItsSlice : Prop :=
  ∀ (s : State) (ga : Word) (n sl off : Nat) (use : Use) (ok : PathOk),
    s.device s.tile.ctxid (fld ga 63 52) = some .here → spaceOf (fld ga 51 0) = .flat sl off → 0 < n →
    place (s.tileAgent s.tileId) true ga n use ok s =
      (match s.virt (s.tileAgent s.tileId).part sl with
       | some t =>
         if off + n ≤ 0x300000 ∧ (off + n ≤ 0x2FA000 ∨ t = s.tileId ∨ s.tile.priv = true)
         then (.ok (.mem (0x40000000000 + t * 0x400000 + off) none), s)
         else (.error (.precise causePagePerm ga), s)
       | none => (.error (.precise causePagePerm ga), s))

/-- LD reads its bytes little-endian at the home with the tile's own earlier stores, extends them as its size and sign say, and sends them
to s[d]: from the tile's own slice with latency 5, from elsewhere under the interlock.  A misaligned address is MISALIGN; a control window
takes 8 bytes of a privileged task.  Rests on the model's choices of log 7 and 16. -/
def Obligations.LoadSendsWhatItReads : Prop :=
  ∀ (h : Hdr) (d a b : SReg) (sz : Size) (sg : Bool) (disp : BitVec 19) (s : State), guardOf h s.tile.regs = true →
    let ga := sx s a + sx s b + disp.signExtend 64
    let n := match sz with | .b => 1 | .h => 2 | .w => 4 | .d => 8
    let i := Instr.ld h d a b sz sg disp
    (ga.toNat % n ≠ 0 → exec i s = .next (s.preciseTrap causeMisalign ga)) ∧
    (∀ pa l m, ga.toNat % n = 0 → isWindow ga = false → Clear s ga n → Sound m → AccessAt s h .A 1 ga n .rd anyFmt pa l m →
      let raw := m.coreRead pa n
      let v : Word := if sg then (BitVec.ofNat (8 * n) raw).signExtend 64 else BitVec.ofNat 64 raw
      let r : List Landing := [⟨lastIssue s h 1 + 5, s.tile.iw.seq, .sreg d v, 0⟩]
      ∃ t vs, exec i s = .next t ∧ Copied h 32 r vs ∧ DoesAfter (fun x =>
        if isSlice pa ∧ sliceTile pa = s.tileId then sending h r vs (marking (reading (lineKeys pa n)) x)
        else loading m (.sreg d v) (marking (reading (lineKeys pa n)) x)) s m t) ∧
    (isWindow ga = true → ga.toNat % n = 0 →
      if n ≠ 8 then exec i s = .next (s.preciseTrap causeMisalign ga)
      else if s.tile.priv = false then exec i s = .next (s.preciseTrap causePrivilege s.tile.iw.raw)
      else WindowHere s ga → Clear s ga n → s.heldWindow = false →
        ∃ t, exec i s = .next t ∧ Does .A (span h 1) (fun x => loading s
          (.sreg d ((s.occupied .A 1 h).windowRead (fld ga 51 0 - 0x800000000))) x) s t)

/-- ST buffers its bytes in its chunk: the tile reads them from then on at the address stored to and every other byte as before, and
memory itself does not change before the commit. -/
def Obligations.StoreBuffersItsBytes : Prop :=
  ∀ (h : Hdr) (v a b : SReg) (sz : Size) (disp : BitVec 19) (s : State), guardOf h s.tile.regs = true →
    let ga := sx s a + sx s b + disp.signExtend 64
    let n := match sz with | .b => 1 | .h => 2 | .w => 4 | .d => 8
    let i := Instr.st h v a b sz disp
    (ga.toNat % n ≠ 0 → exec i s = .next (s.preciseTrap causeMisalign ga)) ∧
    (∀ pa l m, ga.toNat % n = 0 → isWindow ga = false → Clear s ga n → Room m (lineKeys pa n) → YoungerIdle m →
      AccessAt s h .A 1 ga n .wr anyFmt pa l m →
      ∃ t, exec i s = .next t ∧
        DoesAfter (marking (storing (lineKeys pa n) (sharedStore m pa l)
          [storeOf m (m.span s.tile.ctxid ga n) (byteCells pa n (sx s v)) (l.map (·.gen)) none])) s m t ∧
        (∀ k, k < n → t.coreRead (pa + k) 1 = (sx s v).toNat / 256 ^ k % 256) ∧
        (∀ c, (c < pa ∨ pa + n ≤ c) → t.coreRead c 1 = m.coreRead c 1)) ∧
    (isWindow ga = true → ga.toNat % n = 0 →
      if n ≠ 8 then exec i s = .next (s.preciseTrap causeMisalign ga)
      else if s.tile.priv = false then exec i s = .next (s.preciseTrap causePrivilege s.tile.iw.raw)
      else WindowHere s ga → Clear s ga n →
        ∃ t, exec i s = .next t ∧
          Does .A (span h 1) (marking (holding s.tile.iw.seq (.window (fld ga 51 0 - 0x800000000) (sx s v)))) s t)

/-- FENCE, DRAIN, TIDW, NALLOC, CANCEL and REPRI record their operation, to be performed after the commit of the chunk that they end; a
region number or key above 32 bits is ILLEGAL.  ROUTE, TLBI, SEAL and UNSEAL raise PRIVILEGE without TSTAT.PRIV, and with it record their
operation when their operands pass the checks at issue. -/
def Obligations.BoundaryWordRecordsItsOperation : Prop :=
  (∀ (i : Instr) (s : State) (h : Hdr) (ok : Prop) (op : BOp), boundaryOp i s = some (h, ok, op) → guardOf h s.tile.regs = true →
    (ok → ∃ t, exec i s = .next t ∧ Does .A (span h 1) (marking (bounding op s)) s t) ∧
    (¬ ok → exec i s = .next (s.preciseTrap causeIllegal s.tile.iw.raw))) ∧
  (∀ (i : Instr) (s : State) (h : Hdr) (ok : Prop) (op : BOp), privilegedOp i s = some (h, ok, op) → guardOf h s.tile.regs = true →
    (s.tile.priv = false → exec i s = .next (s.preciseTrap causePrivilege s.tile.iw.raw)) ∧
    (s.tile.priv = true → ok → ∃ t, exec i s = .next t ∧ Does .A (span h 1) (marking (bounding op s)) s t))

/-- LDS, STF, STE, AMO, CAS and FRES at an aligned address of memory record their operation with their operands as read at issue; FREG
does so for an aligned future and cell; a misaligned address is MISALIGN.  A privileged task's 64-bit CAS on OWNER of this device does so
too (the model's reading, log 49).  Rests on the model's choices of log 49. -/
def Obligations.MemoryBoundaryWordRecordsItsOperation : Prop :=
  (∀ (i : Instr) (s : State) (pa : Nat) (h : Hdr) (ga : Word) (n : Nat) (op : BOp),
    memoryOp i s pa = some (h, ga, n, op) → guardOf h s.tile.regs = true →
    (ga.toNat % n ≠ 0 → exec i s = .next (s.preciseTrap causeMisalign ga)) ∧
    ∀ l m, ga.toNat % n = 0 → isWindow ga = false → s.device s.tile.ctxid (fld ga 63 52) = some .here →
      (flatOnly i = true → s.isFlatHere ga = true) → AccessAt s h .A 1 ga n .atomic wordFmt pa l m →
      ∃ t, exec i s = .next t ∧ DoesAfter (marking (bounding op m)) s m t) ∧
  (∀ (h : Hdr) (d a b : SReg) (s m m2 : State) (pa pb : Nat) (l k : Option Leaf), guardOf h s.tile.regs = true →
    (sx s a).toNat % 16 = 0 → (sx s b).toNat % 16 = 0 → s.futurePerm (sx s a) = false → s.futurePerm (sx s b) = false →
    AccessAt s h .A 1 (sx s a) 16 .atomic wordFmt pa l m → m.futurePerm (sx s b) = false →
    place (m.tileAgent m.tileId) true (sx s b) 16 .wr anyFmt m = (.ok (.mem pb k), m2) →
    ∃ t, exec (.freg h d a b) s = .next t ∧ DoesAfter (marking (bounding (.freg d (sx s a) (sx s b)) m2)) s m2 t) ∧
  (∀ (h : Hdr) (d a b c : SReg) (s : State), guardOf h s.tile.regs = true → s.tile.priv = true →
    s.device s.tile.ctxid (fld (sx s a) 63 52) = some .here → fld (sx s a) 51 0 = 0x840000030 →
    ∃ t, exec (.cas h d a b c true) s = .next t ∧ Does .A (span h 1) (marking (bounding (.cas d (sx s a) true (sx s b) (sx s c)) s)) s t)

/-- RED, NFREE, NVLOSS and NBACK on this device hold a far operation to their chunk's commit, with its operands as read at issue; a node
reference with reserved bits set is ILLEGAL. -/
def Obligations.FarWordHoldsItsOperation : Prop :=
  (∀ (i : Instr) (s : State) (h : Hdr) (ref : Word) (ok : Prop) (k : FarKind) (n : Nat), nodeOp i s = some (h, ref, ok, k) →
    guardOf h s.tile.regs = true →
    (fld ref 51 22 ≠ 0 ∨ ¬ ok → exec i s = .next (s.preciseTrap causeIllegal s.tile.iw.raw)) ∧
    (NodeHere s ref n → ok → ∃ t, exec i s = .next t ∧ Does .A (span h 1)
      (marking (holding s.tile.iw.seq (.far ⟨k, s.tile.ident s.tileId, n, some s.tileId, 0, none, ref, 0, 0, false⟩))) s t)) ∧
  (∀ (h : Hdr) (a b : SReg) (op : AOp) (dbl : Bool) (s m : State) (pa : Nat) (l : Option Leaf), guardOf h s.tile.regs = true →
    let n := if dbl then 8 else 4
    ((sx s a).toNat % n ≠ 0 → exec (.red h a b op dbl) s = .next (s.preciseTrap causeMisalign (sx s a))) ∧
    ((sx s a).toNat % n = 0 → isWindow (sx s a) = false → AccessAt s h .A 1 (sx s a) n .atomic wordFmt pa l m →
      ∃ t, exec (.red h a b op dbl) s = .next t ∧ DoesAfter (marking (holding s.tile.iw.seq
        (.far ⟨.red op dbl (sx s b), s.tile.ident s.tileId, pa, some s.tileId, 0, l.map (·.gen), sx s a, 0, 0, false⟩))) s m t))

/-- NLD of own nodes loads their records whole into the low bytes of v[d] under the interlock; NST buffers one field of an own node,
leaving ALLOC; nodes of another context are PAGE_PERM.  Rests on the model's choices of log 7. -/
def Obligations.NodeWordsReadAndWriteOwnNodes : Prop :=
  (∀ (h : Hdr) (v : VReg) (a : SReg) (cm1 : BitVec 4) (s : State) (n : Nat), guardOf h s.tile.regs = true → NodeHere s (sx s a) n →
    let k := cm1.toNat + 1
    (¬ OwnNodes s n k → exec (.nld h v a cm1) s = .next (s.preciseTrap causePagePerm (sx s a))) ∧
    (OwnNodes s n k → Sound s → ∃ t, exec (.nld h v a cm1) s = .next t ∧ Does .A (span h 1) (fun x =>
      loading s (.vec v (BitVec.ofNat 16384 (s.coreRead (nodeBase n) (32 * k))) (BitVec.ofNat 16384 (2 ^ (256 * k) - 1)))
        (marking (reading (lineKeys (nodeBase n) (32 * k))) x)) s t)) ∧
  (∀ (h : Hdr) (a b : SReg) (f : NField) (s : State) (n : Nat), guardOf h s.tile.regs = true → NodeHere s (sx s a) n →
    let o := (nodeField f).1
    let w := (nodeField f).2
    let v := sx s b
    let fits := v.toNat < 256 ^ w ∧ (f = .flags → v.getLsbD 7 = false)
    (¬ fits → exec (.nst h a b f) s = .next (s.preciseTrap causeIllegal s.tile.iw.raw)) ∧
    (fits → ¬ OwnNodes s n 1 → exec (.nst h a b f) s = .next (s.preciseTrap causePagePerm (sx s a))) ∧
    (fits → OwnNodes s n 1 → Room s (lineKeys (nodeBase n) 32) → YoungerIdle s →
      ∃ t, exec (.nst h a b f) s = .next t ∧
        (∀ k, k < w → ¬ (f = .flags ∧ k = 0) → t.coreRead (nodeBase n + o + k) 1 = v.toNat / 256 ^ k % 256) ∧
        (f = .flags → t.coreRead (nodeBase n + 6) 1 =
          v.toNat % 256 - v.toNat / 16 % 2 * 16 + s.coreRead (nodeBase n + 6) 1 / 16 % 2 * 16) ∧
        (∀ c, (c < nodeBase n + o ∨ nodeBase n + o + w ≤ c) → t.coreRead c 1 = s.coreRead c 1) ∧
        (∀ c, Memory.byte t.mem c = Memory.byte s.mem c) ∧ t.tile.regs = s.tile.regs ∧ t.tile.inflight = s.tile.inflight ∧
        t = { s with tile := t.tile }))

/-- COPY, COPYM, GATH and SCAT whose operands pass the checks hold their command to the commit, take a transfer identifier of their channel
into s[d], and do nothing else; COPYM's command carries its MMA. -/
def Obligations.CopyWordHoldsItsCommand : Prop :=
  (∀ (h : Hdr) (f : CopyF) (s : State), guardOf h s.tile.regs = true → s.tile.cmdCount < 64 → CopyFits s f →
    ∃ t, exec (.copy h f) s = .next t ∧
      Sends h .A (span h 1) (tidFor s h f.d f.ch)
        (fun x => taking s f.ch (marking (holding s.tile.iw.seq (.command (copyCmd s f none 0 []))) x)) s t) ∧
  (∀ (h : Hdr) (f : CopyF) (m : MmaF) (s : State), guardOf h s.tile.regs = true → s.tile.cmdCount < 64 → CopyFits s f → MmaFits s m →
    ∃ t, exec (.copym h f m) s = .next t ∧
      Sends h .A (span h 1) (tidFor s h f.d f.ch) (fun x => taking s f.ch (marking (holding s.tile.iw.seq (.command
        (copyCmd s f (some (mmaOp s m)) (windowOf s m.acc) (s.mmaRanges m (s.opd m.a) (s.opd m.b) (sx s m.k).toNat)))) x)) s t) ∧
  (∀ (h : Hdr) (f : GathF) (scat : Bool) (s : State), guardOf h s.tile.regs = true → s.tile.cmdCount < 64 → GatherFits s f scat →
    ∃ t, exec (if scat then .scat h f else .gath h f) s = .next t ∧
      Sends h .A (span h 1) (tidFor s h f.d f.ch)
        (fun x => taking s f.ch (marking (holding s.tile.iw.seq (.command (gatherCmd s f scat))) x)) s t)

/-- MMA, MZERO, MDRAIN, MSTORE and MTILE whose operands pass the checks hold their command to the commit and do nothing else. -/
def Obligations.MatrixWordHoldsItsCommand : Prop :=
  ∀ (i : Instr) (s : State) (h : Hdr) (ok : Prop) (c : Cmd), matrixCmd i s = some (h, ok, c) → guardOf h s.tile.regs = true →
    s.tile.cmdCount < 64 → ok →
    ∃ t, exec i s = .next t ∧ Does .M (span h 1) (marking (holding s.tile.iw.seq (.command c))) s t

/-- Every element-wise word of a type that it takes computes its operation on each element that its mask lets through, lands by groups
with its latency, and keeps the other elements; on another type, with a type field that names another type than the captured one, or with
SAT (AR) on a type that is no integer, it is ILLEGAL.  Rests on the model's choices of log 12, 13 and 48. -/
def Obligations.ElementwiseWordLandsByGroup : Prop :=
  ∀ (i : Instr) (op : EOp) (h : Hdr) (f : VF) (s : State), elementwise i = some (op, h, f) → guardOf h s.tile.regs = true →
    ShapeLegal s →
    if TypeOk s f.ty ∧ takesType op s.shape.ty = true ∧ (f.f = true → s.shape.ty = .i8 ∨ s.shape.ty = .i32) then
      ∃ t, exec i s = .next t ∧ IssuedOn .V (span h s.shape.groups) s t ∧
        LandsByGroup h (latencyOf op) f.vd s.shape.ty (fun e =>
          if live s f.mask e then
            some (elemOp op s.shape.ty f.f s.tile.iw.caps.fpctl (operand s f.va e) (operand s f.vb e) (operand s f.vc e))
          else none) s t
    else exec i s = .next (s.preciseTrap causeIllegal s.tile.iw.raw)

/-- On integers the element-wise operations are exact, wrapped to the width or with SAT clamped to it; shifts take their count modulo the
width and AR shifts arithmetically; AND, OR and XOR act on the codes of any type. -/
def Obligations.IntegerElementOperationsAreExact : Prop :=
  ∀ (t : ETy) (sat : Bool) (w : Word) (x y z : Nat), t = .i8 ∨ t = .i32 → x < 2 ^ t.width → y < 2 ^ t.width → z < 2 ^ t.width →
    let n := t.width
    let a := (BitVec.ofNat n x).toInt
    let b := (BitVec.ofNat n y).toInt
    let c := (BitVec.ofNat n z).toInt
    let fit := fun (r : Int) => if sat then max (-2 ^ (n - 1)) (min (2 ^ (n - 1) - 1) r) else r
    let gives := fun (op : EOp) (r : Int) => elemOp op t sat w x y z = ((BitVec.ofInt n (fit r)).toNat, 0)
    gives .add (a + b) ∧ gives .sub (a - b) ∧ gives .mul (a * b) ∧ gives .fma (a * b + c) ∧ gives .min (min a b) ∧ gives .max (max a b) ∧
    gives .abs (a.natAbs : Int) ∧ gives .neg (-a) ∧
    elemOp .shl t sat w x y z = ((BitVec.ofNat n x <<< (y % n)).toNat, 0) ∧
    elemOp .shr t sat w x y z = ((if sat then (BitVec.ofNat n x).sshiftRight (y % n) else BitVec.ofNat n x >>> (y % n)).toNat, 0) ∧
    elemOp .and t sat w x y z = (x &&& y, 0) ∧ elemOp .or t sat w x y z = (x ||| y, 0) ∧ elemOp .xor t sat w x y z = (x ^^^ y, 0)

/-- VBCAST, VIOTA, VSEL, VCVT and VRNG give each element that the mask lets through its value and land by groups; VIOTA of a type that is
neither integer nor FP32 or BF16, and VCVT to its own type or past the register's end, are ILLEGAL. -/
def Obligations.PerGroupWordLandsByGroup : Prop :=
  ∀ (i : Instr) (s : State) (h : Hdr) (ty : Option ETy) (lat : Nat) (vd : VReg) (dty : ETy) (ok : Bool) (val : Nat → Option (Nat × FFlags)),
    perGroupWord i s = some (h, ty, lat, vd, dty, ok, val) → guardOf h s.tile.regs = true → ShapeLegal s →
    if TypeOk s ty ∧ ok = true then ∃ t, exec i s = .next t ∧ IssuedOn .V (span h s.shape.groups) s t ∧ LandsByGroup h lat vd dty val s t
    else exec i s = .next (s.preciseTrap causeIllegal s.tile.iw.raw)

/-- VPERM takes for each element the one that its index names, or zero, VTRANS the one of the transposed place; VMOVS sends one element to
a scalar, sign-extended if it is an integer; a tile of more than 1,024 elements, or an index outside the tile, is ILLEGAL. -/
def Obligations.ElementMovesLandWhole : Prop :=
  (∀ (h : Hdr) (vd va vb : VReg) (m : MReg) (ty : Option ETy) (s : State), guardOf h s.tile.regs = true → ShapeLegal s → TypeOk s ty →
    let g := s.shape.groups
    if 1024 < s.shape.n then exec (.vperm h vd va vb m ty) s = .next (s.preciseTrap causeIllegal s.tile.iw.raw)
    else ∃ t x en, exec (.vperm h vd va vb m ty) s = .next t ∧ IssuedOn .V (span h g) s t ∧ SendsWhole h g 6 [(.vec vd x en, 0)] s t ∧
      Moves s va vd s.shape.n (live s m) (fun e =>
        let k := vecBytes (s.tile.vecAt vb.toNat s.now) (2 * e) 2
        if k < s.shape.n then some k else none) t) ∧
  (∀ (h : Hdr) (vd va : VReg) (ty : Option ETy) (s : State), guardOf h s.tile.regs = true → ShapeLegal s → TypeOk s ty →
    let g := s.shape.groups
    ∃ t x en, exec (.vtrans h vd va ty) s = .next t ∧ IssuedOn .V (span h g) s t ∧ SendsWhole h g 6 [(.vec vd x en, 0)] s t ∧
      Moves s va vd s.shape.n (fun _ => true) (fun e => some (e % s.shape.rows * s.shape.cols + e / s.shape.rows)) t) ∧
  (∀ (h : Hdr) (sd va : VReg) (ty : Option ETy) (k : BitVec 10) (s : State), guardOf h s.tile.regs = true → TypeOk s ty →
    let x := elemAt (s.tile.vecAt va.toNat s.now) s.shape.ty k.toNat
    if s.shape.n ≤ k.toNat then exec (.vmovs h sd va ty k) s = .next (s.preciseTrap causeIllegal s.tile.iw.raw)
    else ∃ t, exec (.vmovs h sd va ty k) s = .next t ∧
      Sends h .V (span h 1) [⟨lastIssue s h 1 + 3, s.tile.iw.seq, .sreg (sd.zeroExtend 6)
        (if s.shape.ty = .i8 then (BitVec.ofNat 8 x).signExtend 64
          else if s.shape.ty = .i32 then (BitVec.ofNat 32 x).signExtend 64 else BitVec.ofNat 64 x), 0⟩] id s t)

/-- VCMP gives each live column below COLS the conjunction of its comparisons over the rows and clears the bits from COLS up; VMASK sends
the 512 bits of its operation; both write a mask, of which m0 stays all ones. -/
def Obligations.MaskWordsSendAMask : Prop :=
  (∀ (h : Hdr) (md : MReg) (va vb : VReg) (m : MReg) (ty : Option ETy) (c : VCond) (s : State), guardOf h s.tile.regs = true →
    ShapeLegal s → TypeOk s ty →
    let sh := s.shape
    let holds := fun e => vcondHolds c sh.ty (fpFiz s.fpc) (operand s va e) (operand s vb e)
    if takesType .add sh.ty = false then exec (.vcmp h md va vb m ty c) s = .next (s.preciseTrap causeIllegal s.tile.iw.raw)
    else ∃ t x en f, exec (.vcmp h md va vb m ty c) s = .next t ∧ IssuedOn .V (span h sh.groups) s t ∧
      SendsWhole h sh.groups 4 [(.mask md x en, f)] s t ∧
      ∀ (old : BitVec 512) k, k < 512 → ((old &&& ~~~en) ||| (x &&& en)).getLsbD k =
        if sh.cols ≤ k then false
        else if (s.tile.maskAt m.toNat s.now).getLsbD k then (List.range sh.rows).all fun r => (holds (r * sh.cols + k)).1
        else old.getLsbD k) ∧
  (∀ (h : Hdr) (md : MReg) (op : VMaskOp) (ty : Option ETy) (s : State), guardOf h s.tile.regs = true → TypeOk s ty →
    let m := fun (n : MReg) => s.tile.maskAt n.toNat s.now
    ∃ t, exec (.vmask h md op ty) s = .next t ∧ IssuedOn .V (span h 1) s t ∧
      SendsWhole h 1 2 [(.mask md (match op with
        | .and a b => m a &&& m b | .or a b => m a ||| m b | .xor a b => m a ^^^ m b | .andn a b => m a &&& ~~~(m b)
        | .not a => ~~~(m a) | .ones => BitVec.allOnes 512
        | .first r => BitVec.ofNat 512 (2 ^ min (s.tile.regs.sreg r.toNat).toNat 512 - 1)) (BitVec.allOnes 512), 0)] s t)

/-- VSHAPE writes a legal shape at once, from a scalar or from its immediate, and delivery goes on in the next cycle; an illegal one is
ILLEGAL and leaves VSHAPE. -/
def Obligations.VshapeWritesTheShape : Prop :=
  ∀ (i : Instr) (h : Hdr) (v : State → Word) (s : State), guardOf h s.tile.regs = true →
    ((∃ r, i = .vshapeReg h r ∧ v = fun s => s.tile.regs.sreg r.toNat) ∨
      (∃ rows cols ty, i = .vshapeImm h rows cols ty ∧ v = fun _ => BitVec.ofNat 64 (Machine.tyCode ty * 2 ^ 16 + cols.toNat * 2 ^ 6 + rows.toNat))) →
    if ctlAccepts 0x000 (v s) then
      ∃ t, exec i s = .next t ∧ t.tile.fstop = false ∧ t.tile.fresume = s.now + 1 ∧
        Does .V (span h 1) (fun x => { x with tile := { x.tile with regs := { x.tile.regs with vshape := v s } } }) s t
    else exec i s = .next (s.resumeFetch.preciseTrap causeIllegal s.tile.iw.raw)

/-- VRED adds the live elements to its latch (to zero with CLR), VSCAN does so and sends the running sums, VPSMOV sends a latch rounded or as
its image; the latch's new value lands whole. -/
def Obligations.LatchWordsAccumulate : Prop :=
  (∀ (h : Hdr) (n : LReg) (va : VReg) (m : MReg) (ty : Option ETy) (clr : Bool) (s : State), guardOf h s.tile.regs = true →
    ShapeLegal s → TypeOk s ty →
    let g := s.shape.groups
    let l := lsbExp (vget s.tile.iw.caps.psw n.toNat)
    let xs := ((List.range s.shape.n).filter (live s m)).map fun e => inValue s.shape.ty (fpFiz s.fpc) (operand s va e)
    let a := if clr then AccEntry.zero else vget s.tile.regs.ps n.toNat
    ∃ t, exec (.vred h n va m ty clr) s = .next t ∧ IssuedOn .V (span h g) s t ∧
      SendsWhole h g 10 [(.latch n (xs.foldl (fun r x => r.addValue l x.1) a.run).finish, orAll (xs.map fun x => x.2 &&& .oo))] s t) ∧
  (∀ (h : Hdr) (vd va : VReg) (n : LReg) (m : MReg) (ty : Option ETy) (s : State), guardOf h s.tile.regs = true →
    ShapeLegal s → TypeOk s ty →
    let g := s.shape.groups
    let l := lsbExp (vget s.tile.iw.caps.psw n.toNat)
    let es := (List.range s.shape.n).filter (live s m)
    let sum := fun (k : Nat) => (es.take k).foldl (fun r e => r.addValue l (inValue s.shape.ty (fpFiz s.fpc) (operand s va e)).1)
      (vget s.tile.regs.ps n.toNat).run
    if takesType .add s.shape.ty = false then exec (.vscan h vd va n m ty) s = .next (s.preciseTrap causeIllegal s.tile.iw.raw)
    else ∃ t x en f, exec (.vscan h vd va n m ty) s = .next t ∧ IssuedOn .V (span h g) s t ∧
      SendsWhole h g 12 [(.vec vd x en, f), (.latch n (sum es.length).finish, 0)] s t ∧
      (∀ y k e, k < es.length → es[k]? = some e → elemAt (vecAfter (sent s t) vd y) s.shape.ty e =
        ((sum (k + 1)).drain l s.shape.ty (fpRm s.fpc) (fpFoz s.fpc)).1 % 2 ^ s.shape.ty.width) ∧
      (∀ y e, e < s.shape.n → live s m e = false → elemAt (vecAfter (sent s t) vd y) s.shape.ty e = elemAt y s.shape.ty e)) ∧
  (∀ (h : Hdr) (vd : VReg) (n : LReg) (ty : Option ETy) (s : State), guardOf h s.tile.regs = true →
    let l := lsbExp (vget s.tile.iw.caps.psw n.toNat)
    let a := vget s.tile.regs.ps n.toNat
    ∃ t x en f, exec (.vpsmov h vd n ty) s = .next t ∧ IssuedOn .V (span h 1) s t ∧ SendsWhole h 1 4 [(.vec vd x en, f)] s t ∧
      match ty with
      | some t => f = (a.drain l t (fpRm s.fpc) (fpFoz s.fpc)).2 ∧ en.toNat = 2 ^ t.place - 1 ∧
          x.toNat = (a.drain l t (fpRm s.fpc) (fpFoz s.fpc)).1 % 2 ^ t.width
      | none => f = 0 ∧ en.toNat = 2 ^ 256 - 1 ∧ x.toNat = ofBytes (a.image l))

/-- VQUANT of FP32 or BF16 rows of whole blocks writes each block's codes, scale and outlier entries, each group 8 cycles after its own,
and keeps the rest of the three registers; otherwise it is ILLEGAL.  Rests on the model's choices of log 48. -/
def Obligations.QuantWritesItsBlocks : Prop :=
  ∀ (h : Hdr) (vd va vb vc : VReg) (dty : ETy) (blk : QBlk) (e4 : Bool) (cap : QCap) (s : State), guardOf h s.tile.regs = true →
    ShapeLegal s →
    let b := match blk with | .b16 => 16 | .b32 => 32 | .b64 => 64
    let c := match cap with | .c0 => 0 | .c2 => 2 | .c4 => 4
    let sh := s.shape
    let out := fun k => quantBlock dty e4 c (fpRm s.fpc) (fpFoz s.fpc) (blockValues s va b k)
    vd ≠ vb → (c ≠ 0 → vc ≠ vd ∧ vc ≠ vb) →
    if (sh.ty = .f32 ∨ sh.ty = .bf16) ∧ sh.cols % b = 0 then
      ∃ t, exec (.vquant h vd va vb vc dty blk e4 cap) s = .next t ∧ IssuedOn .V (span h sh.groups) s t ∧ SendsMany h s t ∧
        (∀ l ∈ sent s t, ∃ g, g < sh.groups ∧ l.cyc = lastIssue s h sh.groups + g + 8) ∧
        (∀ x k p, k < sh.n / b → p < b → elemAt (vecAfter (sent s t) vd x) dty (k * b + p) = (out k).codes.getD p 0 % 2 ^ dty.width) ∧
        (∀ x k, k < sh.n / b → vecBytes (vecAfter (sent s t) vb x) k 1 = (out k).scale % 256) ∧
        (∀ x k j, k < sh.n / b → j < c → vecBytes (vecAfter (sent s t) vc x) ((k * c + j) * 4) 4 = (out k).entries.getD j 0 % 2 ^ 32) ∧
        (∀ x i, sh.n * dty.place ≤ i → (vecAfter (sent s t) vd x).getLsbD i = x.getLsbD i) ∧
        (∀ x i, sh.n / b ≤ i → vecBytes (vecAfter (sent s t) vb x) i 1 = vecBytes x i 1) ∧
        (∀ x i, c ≠ 0 → sh.n / b * c * 4 ≤ i → vecBytes (vecAfter (sent s t) vc x) i 1 = vecBytes x i 1)
    else exec (.vquant h vd va vb vc dty blk e4 cap) s = .next (s.preciseTrap causeIllegal s.tile.iw.raw)

/-- VSELK, VMERGEK, VSHORT and VSAMP on well-formed lists send the list, latches and scalar that their rules give, whole; a COUNT above
64, or a shape that the word does not take, is ILLEGAL.  Rests on the model's choices of log 13, 23 and 87. -/
def Obligations.ListWordsSendTheirLists : Prop :=
  (∀ (h : Hdr) (vd va sb : VReg) (t s : LReg) (k : BitVec 7) (m : MReg) (ty : Option ETy) (st : State), guardOf h st.tile.regs = true →
    let l := listOf (st.tile.vecAt vd.toNat st.now)
    let g := st.shape.groups
    let r := selectK l (latchLsb st t) (latchLsb st s) (vget st.tile.regs.ps t.toNat).run (vget st.tile.regs.ps s.toNat).run k.toNat
      st.shape.n (st.listElems va m l.next)
    if TypeOk st ty ∧ listFits st vd = true then
      ∃ x, exec (.vselk h vd va sb t s k m ty) st = .next x ∧ IssuedOn .V (span h g) st x ∧
        SendsWhole h g 16 [(.vec vd r.1.image (BitVec.allOnes 16384), 0), (.latch t r.2.1, 0), (.latch s r.2.2, 0),
          (.sreg (sb.zeroExtend 6) (BitVec.ofNat 64 r.1.ents.length), 0)] st x
    else exec (.vselk h vd va sb t s k m ty) st = .next (st.preciseTrap causeIllegal st.tile.iw.raw)) ∧
  (∀ (h : Hdr) (vd va vb : VReg) (t s : LReg) (k : BitVec 7) (st : State), guardOf h st.tile.regs = true →
    let a := listOf (st.tile.vecAt va.toNat st.now)
    let b := listOf (st.tile.vecAt vb.toNat st.now)
    match (if a.count ≤ 64 ∧ b.count ≤ 64 then mergeK a b (latchLsb st t) (latchLsb st s) k.toNat else none) with
    | some r => ∃ x, exec (.vmergek h vd va vb t s k) st = .next x ∧ IssuedOn .V (span h 2) st x ∧
        SendsWhole h 2 16 [(.vec vd r.1.image (BitVec.allOnes 16384), 0), (.latch t r.2.1, 0), (.latch s r.2.2, 0)] st x
    | none => exec (.vmergek h vd va vb t s k) st = .next (st.preciseTrap causeIllegal st.tile.iw.raw)) ∧
  (∀ (h : Hdr) (vd va : VReg) (n : LReg) (m : MReg) (ty : Option ETy) (s : State), guardOf h s.tile.regs = true →
    let l := listOf (s.tile.vecAt vd.toNat s.now)
    let g := 2 * s.shape.groups
    let r := shortK l (latchLsb s n) (vget s.tile.regs.ps n.toNat).run (fld s.tile.iw.caps.sampth 31 0) s.shape.n (s.listElems va m l.next)
    if TypeOk s ty ∧ listFits s vd = true then
      ∃ x, exec (.vshort h vd va n m ty) s = .next x ∧ IssuedOn .V (span h g) s x ∧
        SendsWhole h g 20 [(.vec vd r.1.image (BitVec.allOnes 16384), 0), (.latch n r.2, 0)] s x
    else exec (.vshort h vd va n m ty) s = .next (s.preciseTrap causeIllegal s.tile.iw.raw)) ∧
  (∀ (h : Hdr) (sd va vb sc : VReg) (s : State), guardOf h s.tile.regs = true →
    let l := listOf (s.tile.vecAt va.toNat s.now)
    let r := sample l (vecBytes (s.tile.vecAt vb.toNat s.now) 0 4) (fld (s.tile.regs.sreg sc.toNat) 31 0)
    if l.count ≤ 64 then
      ∃ x, exec (.vsamp h sd va vb sc) s = .next x ∧ IssuedOn .V (span h 1) s x ∧
        SendsWhole h 1 12 [(.sreg (sd.zeroExtend 6) (BitVec.ofNat 64 (r.1 * 2 ^ 32 + r.2.1)), r.2.2)] s x
    else exec (.vsamp h sd va vb sc) s = .next (s.preciseTrap causeIllegal s.tile.iw.raw))

/-- VSELK keeps the k best of the list and the numbers offered, the best first and equal values by index; it drops every NaN and −infinity
and raises NEXT by the tile's elements.  Rests on the model's choices of log 23 and 87. -/
def Obligations.SelectionKeepsTheBest : Prop :=
  ∀ (l : LReg215) (tl sl : Int) (t s : Run) (k width : Nat) (xs : List LEnt),
    let r := (selectK l tl sl t s k width xs).1
    let offered := xs.filter fun x => !x.value.isNan && x.val != 0xFF800000
    r.next = (l.next + width) % 2 ^ 32 ∧ r.ents.length = min k (l.ents.length + offered.length) ∧
    ∃ all : List LEnt, all.Perm (l.ents ++ offered) ∧ all.Pairwise (fun a b => ¬ b.before a = true) ∧ r.ents = all.take k

/-- VLD and VLDS of raw memory in the tile's own slice send each live element as memory holds it, by groups with latency 8, keep the others,
and note the lines read. -/
def Obligations.VectorLoadFromOwnSlice : Prop :=
  ∀ (h : Hdr) (f : VMemF) (strided : Bool) (s : State) (off : Nat → Nat), guardOf h s.tile.regs = true → RunsInOwnSlice s f strided off →
    ∃ t rd, exec (if strided then .vlds h f else .vld h f) s = .next t ∧ IssuedOn .A (span h s.shape.groups) s t ∧
      (∀ c, s.tile.chunkOf s.tile.iw.seq = some c → ∀ k, k ∈ rd ↔ k ∈ c.reads ∨ k ∈ runLines s strided off) ∧
      LandsByGroup h 8 f.vd s.shape.ty (fun e => if live s f.mask e then some (elemBits s s strided off e, 0) else none)
        (marking (fun c => { c with reads := rd }) s) t

/-- VST and VSTS to raw memory in the tile's own slice buffer each live element: the tile reads it back from its place unless a later run
overwrites it, keeps the masked elements of a run that lies apart from the others, and reads every byte outside the runs as before. -/
def Obligations.VectorStoreToOwnSlice : Prop :=
  ∀ (h : Hdr) (f : VMemF) (strided : Bool) (s : State) (off : Nat → Nat), guardOf h s.tile.regs = true → RunsInOwnSlice s f strided off →
    RoomForAny s (runLines s strided off) → YoungerIdle s →
    ∃ t, exec (if strided then .vsts h f else .vst h f) s = .next t ∧ IssuedOn .A (span h s.shape.groups) s t ∧
      (∀ e, e < s.shape.n → live s f.mask e = true →
        (∀ q, runOf s strided e < q → q < runCount s strided → Apart s strided off (runOf s strided e) q) →
        elemBits t s strided off e = operand s f.vd e) ∧
      (∀ e, e < s.shape.n → live s f.mask e = false →
        (∀ q, q ≠ runOf s strided e → q < runCount s strided → Apart s strided off (runOf s strided e) q) →
        elemBits t s strided off e = elemBits s s strided off e) ∧
      (∀ c, (∀ r, r < runCount s strided → c < sliceBase s.tileId + off r ∨ sliceBase s.tileId + off r + runSize s strided ≤ c) →
        t.coreRead c 1 = s.coreRead c 1) ∧
      (∀ c, Memory.byte t.mem c = Memory.byte s.mem c) ∧ t.tile.regs = s.tile.regs ∧ t.tile.inflight = s.tile.inflight ∧
      t.tile.votes = s.tile.votes ∧ t = { s with tile := t.tile }

/-- EXIT with no successor only issues; with successors it reads their blocks and holds those that are JOINs, or that the launch checks
accept, to its chunk's commit; a block that is not aligned is a fault of the chunk. -/
def Obligations.ExitHoldsItsSuccessors : Prop :=
  (∀ (h : Hdr) (a : SReg) (s : State), guardOf h s.tile.regs = true → Rested s →
    ∃ t, exec (.exit h a 0) s = .next t ∧ Does .S (span h 1) id s t) ∧
  (∀ (h : Hdr) (a : SReg) (n : BitVec 3) (s : State) (off : Nat → Nat), guardOf h s.tile.regs = true → 0 < n.toNat → Sound s → Rested s →
    (∀ j, j < n.toNat → OwnSpan s (exitAddr s a j) 64 (off j) ∧ (exitAddr s a j).toNat % 64 = 0 ∧ Clear s (exitAddr s a j) 64 ∧
      (blockOf (blockWords s (sliceBase s.tileId + off j))).join = true) →
    ∃ t, exec (.exit h a n) s = .next t ∧ Does .S (span h 1) (marking fun c =>
      holding s.tile.iw.seq (.successors ((List.range n.toNat).map fun j =>
        ⟨exitAddr s a j, blockOf (blockWords s (sliceBase s.tileId + off j))⟩))
        (reading ((List.range n.toNat).flatMap fun j => lineKeys (sliceBase s.tileId + off j) 64) c)) s t) ∧
  (∀ (h : Hdr) (a : SReg) (s m : State) (off : Nat), guardOf h s.tile.regs = true → Sound s →
    OwnSpan s (exitAddr s a 0) 64 off → (exitAddr s a 0).toNat % 64 = 0 → Clear s (exitAddr s a 0) 64 →
    let b := blockOf (blockWords s (sliceBase s.tileId + off))
    let read := marking (reading (lineKeys (sliceBase s.tileId + off) 64)) ((begun s).occupied .S 1 h)
    b.join = false → (Alone s ∨ Unasked m) → checkBlock (s.tileAgent s.tileId) s.tile.progbase (dieOf s.tileId)
      (.exit (s.tile.ident s.tileId).region.toNat) (s.reserved s.tile.ctxid) b read = (none, m) →
    ∃ t, exec (.exit h a 1) s = .next t ∧ DoesAfter (marking (holding s.tile.iw.seq (.successors [⟨exitAddr s a 0, b⟩]))) s
      (tried s m) t) ∧
  (∀ (h : Hdr) (a : SReg) (n : BitVec 3) (s : State), guardOf h s.tile.regs = true → 0 < n.toNat → (exitAddr s a 0).toNat % 64 ≠ 0 →
    Rested s → (∀ c, s.tile.chunkOf s.tile.iw.seq = some c → c.lone = false ∨ c.first ≠ s.tile.iw.seq) →
    s.tile.chunkOf s.tile.iw.seq ≠ none → s.tile.deferred = none →
    ∃ t, exec (.exit h a n) s = .next t ∧ t.tile.deferred = some ⟨s.tile.iw.seq, s.tile.iw.idx, causeMisalign, exitAddr s a 0, none⟩)

/-- LDS, STF, FENCE, DRAIN, TIDW, TLBI and ROUTE whose chunk has committed are performed when their condition holds, the first of their
kind in commit order: LDS empties a full word and returns it, STF fills an empty one, the waits end, TLBI drops translations on every
tile, ROUTE of the owner writes its slot; otherwise nothing happens.  Rests on the model's choices of log 8. -/
def Obligations.WaitingWordsArePerformed : Prop :=
  ∀ (t : TileNo) (b : Bnd) (s : State), (s.tileAt t.toNat).bnd = some b → b.commitNo.isSome = true →
    (∀ d pa, b.op = .lds d pa → s.headOf t.toNat = true → Sound s →
      exec (.ldsPerform t) s = .next (if s.isFull pa then (performed t.toNat (some (d, BitVec.ofNat 64 (s.home pa 8))) b s).setFull pa false else s)) ∧
    (∀ pa v, b.op = .stf pa v → s.headOf t.toNat = true → Sound s →
      exec (.stfPerform t) s = .next (if s.isFull pa then s
        else ((performed t.toNat none b s).homeWrite pa (toBytes 8 v.toNat)).setFull pa true)) ∧
    (∀ sc, b.op = .fence sc →
      let engines := (∀ c ∈ (s.tileAt t.toNat).activeCmds, b.seq < c.seq) ∧ (s.tileAt t.toNat).drains = [] ∧ ∀ f ∈ s.far, f.tile ≠ some t.toNat
      (sc = .engine → engines → exec (.fenceWaitSatisfied t) s = .next (performed t.toNat none b s)) ∧
      (sc = .host → engines → (∀ w ∈ s.wb, w.tile ≠ t.toNat) → exec (.fenceWaitSatisfied t) s = .next (performed t.toNat none b s)) ∧
      (sc = .remote → (s.tileAt t.toNat).unsent = [] → (s.tileAt t.toNat).remote = [] → (s.tileAt t.toNat).activeCmds = [] → s.far = [] →
        exec (.fenceWaitSatisfied t) s = .next (performed t.toNat none b s)) ∧
      (s.fenced t.toNat b.seq sc = false → exec (.fenceWaitSatisfied t) s = .next s)) ∧
    (∀ p, b.op = .drain p → exec (.drainWaitSatisfied t) s =
      .next (if (s.tileAt t.toNat).activeCmds.all fun c => !(c.op.isCopy && c.seq ≤ b.seq && (s.copyPaths c).contains p)
        then performed t.toNat none b s else s)) ∧
    (∀ a ch, b.op = .tidw a ch → exec (.tidwWaitSatisfied t) s =
      .next (if precedes48 (((s.tileAt t.toNat).chunkEndReg b.seq a).truncate 48) ((s.tileAt t.toNat).tidst ch.toNat)
        then performed t.toNat none b s else s)) ∧
    (∀ sc ctx va, b.op = .tlbi sc ctx va → Assoc.wf Tile.idle s.others = true → s.firstOf BOp.isTlbi t.toNat = true →
      ∃ x, exec (.tlbiPerform t) s = .next x ∧ (∀ u, u ∈ s.tiles → ∀ e ∈ (x.tileAt u).tlb, tlbiDrops sc ctx va e = false) ∧
        (x.tileAt t.toNat).bnd = none ∧ x.mem = s.mem ∧ x.wb = s.wb) ∧
    (∀ slot img pa s1, b.op = .route slot img → s.firstOf BOp.isRoute t.toNat = true →
      (s.host.isOwner 1 0 = false →
        exec (.routePerform t) s = .next (s.refuse.bndFault t.toNat causePrivilege ((s.tileAt t.toNat).progWord b.idx))) ∧
      (s.host.isOwner 1 0 = true → s.fetchFor b.who img 32 = .bytes pa s1 →
        let l := toBytes 32 (s1.home pa 32)
        exec (.routePerform t) s = .next (if imageOk l then (s1.modHost fun x => { x with slots := setSlot x.slots slot.toNat l }).finishBnd t.toNat none
          else s1.bndFault t.toNat causeIllegal ((s.tileAt t.toNat).progWord b.idx))))

/-- AMO, CAS and RED apply their operation once at the address where their home takes them, AMO and CAS returning the old value; FREG
registers a waiter or sends its arrival on, FRES resolves an EMPTY future and raises FUTURE_TWICE on another; NALLOC gives the lowest free
node or all ones; NFREE releases a node of its own context; a walk updates one node and goes on to its parent.  A CAS on OWNER swaps it
and returns what it held.  Rests on the model's choices of log 10, 19 and 49. -/
def Obligations.OperationsAreAppliedAtTheirHome : Prop :=
  (∀ (t : TileNo) (b : Bnd) (d : SReg) (ga : Word) (dbl : Bool) (r : Rmw) (s s1 s2 : State) (pa p : Nat) (l : Option Leaf),
    s.atomicTurn t.toNat = true → (s.tileAt t.toNat).bnd = some b → b.op.rmw = some (d, ga, dbl, r) →
    let n := if dbl then 8 else 4
    place (s.identAgent b.who) true ga n .atomic wordFmt s = (.ok (.mem pa l), s1) → s1.undrained pa n = false → b.count ≤ s1.now →
    (s1.takeSrcSeq t.toNat).2.arriveHome t.toNat (s1.takeSrcSeq t.toNat).1 pa (l.map (·.gen)) false = .apply p s2 → Sound s2 →
    exec (.atomicPerform t) s = .next ((s2.rmw b.who.by_ r p n).1.finishBnd t.toNat (some (d, r.ret n (s2.home p n))))) ∧
  (∀ (t : TileNo) (b : Bnd) (d : SReg) (ga e v : Word) (s s1 : State), s.atomicTurn t.toNat = true → (s.tileAt t.toNat).bnd = some b →
    b.op = .cas d ga true e v → place (s.identAgent b.who) true ga 8 .atomic wordFmt s = (.ok (.window ownerOff), s1) →
    exec (.atomicPerform t) s = .next (({ s1 with host := { s1.host with owner := if s1.host.owner = e then v else s1.host.owner } } : State).finishBnd
      t.toNat (some (d, s1.host.owner)))) ∧
  (∀ (s s1 s2 : State) (i p : Nat) (f : FarOp) (op : AOp) (dbl : Bool) (y : Word), s.pick (s.farChoices false) = some (i, s1) →
    s1.far[i]? = some f → f.kind = .red op dbl y →
    ({ s1 with far := s1.far.eraseIdx i } : State).arriveHome f.who.tile f.seqNo f.home f.gen f.redirected = .apply p s2 → Sound s2 →
    exec .farOpApply s = .next (s2.rmw f.who.by_ (.amo op y) p (if dbl then 8 else 4)).1) ∧
  (∀ (s : State) (w : By) (pa n : Nat) (r : Rmw), n = 4 ∨ n = 8 → (∀ i, i < n → s.guarded (pa + i) = false) →
    Memory.wf s.mem = true →
    let old := s.home pa n
    let t := (s.rmw w r pa n).1
    (∀ a, a < pa ∨ pa + n ≤ a → t.home a 1 = s.home a 1) ∧
    match r with
    | .cas e v => t.home pa n = if old = e.toNat % 2 ^ (8 * n) then v.toNat % 2 ^ (8 * n) else old
    | .amo op y => op ≠ .fadd → t.home pa n = aopNew op n old (y.toNat % 2 ^ (8 * n))) ∧
  (∀ (s s1 : State) (i : Nat) (f : FarOp), s.pick (s.farChoices false) = some (i, s1) → s1.far[i]? = some f → f.kind = .nfree →
    let x : State := { s1 with far := s1.far.eraseIdx i }
    exec .farOpApply s = .next (match s1.nodeTag f.home with
      | some g => if g.ctx = f.who.ctx then (bill (x.identAgent f.who) .nsm g.region.toNat (-1) (x.freeNode f.home)).2
          else x.modDie (f.home / 2 ^ 20) fun d => { d with badfree := true, errnode := nodeRef f.home }
      | none => x.modDie (f.home / 2 ^ 20) fun d => { d with badfree := true, errnode := nodeRef f.home })) ∧
  (∀ (t : TileNo) (b : Bnd) (d : SReg) (f c : Word) (s s1 s2 : State) (fa ca : Nat), s.atomicTurn t.toNat = true →
    (s.tileAt t.toNat).bnd = some b → b.op = .freg d f c → s.reach t.toNat b f 16 .atomic = .here fa s1 →
    s1.reach t.toNat b c 16 .wr = .here ca s2 → Sound s2 →
    let w := s2.home64 fa
    let st := fld w 1 0
    let k := fld w 15 2
    exec (.fregPerform t) s = .next (
      if st = 0 then
        if k = 16383 then s2.finishBnd t.toNat (some (d, 3))
        else ((s2.agentStore (s2.identAgent b.who) ca (BitVec.ofNat 64 (fld w 63 16 * 16))).agentStore (s2.identAgent b.who) fa
          (BitVec.ofNat 64 (fld c 51 4 * 2 ^ 16 + (k + 1) * 4))).finishBnd t.toNat (some (d, 0))
      else (s2.arriveSoon t.toNat b.who (s2.home64 (ca + 8)) (st != 1)).finishBnd t.toNat (some (d, if st = 1 then 1 else 2)))) ∧
  (∀ (t : TileNo) (b : Bnd) (f v : Word) (fail : Bool) (s s1 : State) (fa : Nat), s.atomicTurn t.toNat = true →
    (s.tileAt t.toNat).bnd = some b → b.op = .fres f v fail → s.reach t.toNat b f 16 .atomic = .here fa s1 → Sound s1 →
    exec (.fresPerform t) s = .next (
      if fld (s1.home64 fa) 1 0 = 0 then
        (resolve (s1.identAgent b.who) (s1.tileAt t.toNat).progbase fa v fail s1).2.finishBnd t.toNat none
      else s1.bndFault t.toNat causeFutureTwice f)) ∧
  (∀ (t : TileNo) (b : Bnd) (d : SReg) (s : State), s.atomicTurn t.toNat = true → (s.tileAt t.toNat).bnd = some b → b.op = .nalloc d →
    (s.lowestFree (dieOf t.toNat) = none → exec (.nallocPerform t) s = .next (s.finishBnd t.toNat (some (d, BitVec.allOnes 64)))) ∧
    (∀ n s1, s.lowestFree (dieOf t.toNat) = some n → fitsBudget (s.identAgent b.who) .nsm b.who.region.toNat 1 s = (none, s1) →
      let s2 := (bill (s.identAgent b.who) .nsm b.who.region.toNat 1 s1).2.homeWrite (nodeBase n) nodeImage
      exec (.nallocPerform t) s = .next (({ s2 with nodes := Assoc.put n ⟨b.who.ctx, b.who.region⟩ s2.nodes } : State).finishBnd t.toNat
        (some (d, nodeRef n))))) ∧
  (∀ (s : State) (g : Agent) (pa : Nat) (v : Word), s.ownRange pa = false → s.agentStore g pa v = s.homeWrite64 pa v) ∧
  (∀ (s s1 : State) (i : Nat) (f : FarOp) (g : NodeTag), (begun s).pick ((begun s).farChoices true) = some (i, s1) → s1.far[i]? = some f →
    s1.nodeTag f.home = some g → g.ctx = f.who.ctx → s1.uncorrectable (nodeBase f.home) 32 = false →
    let r := s1.nodeRec f.home
    let p := fld r.w2 31 0
    let ends := p = 0xFFFFFFFF ∨ r.w0.getLsbD 53 = true ∨ 63 ≤ f.lvl
    let x : State := { s1 with far := s1.far.eraseIdx i }
    ∃ w0 w1 : Word,
      (∀ k, f.kind = .nvloss k → w1 = r.w1 ∧ fld w0 31 0 = fld r.w0 31 0 ∧ fld w0 47 32 = min (fld r.w0 47 32 + k.toNat) 0xFFFF ∧
        w0.getLsbD 48 = (r.w0.getLsbD 48 || decide (0xFFFF < fld r.w0 47 32 + k.toNat))) ∧
      (∀ k v alt neg, f.kind = .nback k v alt neg → fld w0 31 0 = min (fld r.w0 31 0 + 1) 0xFFFFFFFF ∧ fld w0 47 32 = fld r.w0 47 32 - k.toNat ∧
        (let w := r.w1.toInt + (if neg then -v.toInt else v.toInt)
         w1 = BitVec.ofInt 64 (max (-2 ^ 63) (min (2 ^ 63 - 1) w)))) ∧
      (ends → exec .walkNodeUpdate s = .next (tried s (x.homeWrite (nodeBase f.home) (toBytes 8 w0.toNat ++ toBytes 8 w1.toNat)))) ∧
      (¬ ends → p < 2 ^ 22 →
        let y := x.homeWrite (nodeBase f.home) (toBytes 8 w0.toNat ++ toBytes 8 w1.toNat)
        let g : FarOp := { f with kind := f.kind.onward, home := p, lvl := f.lvl + 1 }
        exec .walkNodeUpdate s = .next (tried s { y with far := (y.far.take i ++ g :: y.far.drop i) }))) ∧
  (∀ (s s1 : State) (a : Arrival) (r : List Arrival), s.arrivals = a :: r →
    (arrive (s.identAgent a.who) a.prog a.who.region.toNat a.addr a.failed { begun s with arrivals := r }).2 = s1 → (Alone s ∨ Unasked s1) →
    exec .joinArrival s = .next (tried s s1))

/-- The earliest result due lands whole, ORs its flags into FPCTL and is gone; s0, p0 and m0 keep their constants whatever lands; a load's
value lands when it may; a word with the vote bit sends the values of its three issues, of which those that agree, or two of three, join
the results; a selected event ends a WAITE; delivery fills the queues.  Rests on the model's choices of log 38 and 57. -/
def Obligations.ResultsLand : Prop :=
  (∀ (t : TileNo) (l : Landing) (s : State), let x := s.tileAt t.toNat
    l ∈ x.inflight → l.cyc ≤ s.now →
    (∀ m ∈ x.inflight, m.cyc ≤ s.now → m = l ∨ l.cyc < m.cyc ∨ (l.cyc = m.cyc ∧ l.seq < m.seq)) →
    ∃ y, exec (.resultLanding t) s = .next (s.setTile t.toNat y) ∧ y.regs = x.regs.land l.dest l.flags ∧ y.inflight = x.inflight.erase l ∧
      y.loads = x.loads ∧ y.fetch = x.fetch ∧ y.cur = x.cur ∧ y.acc = x.acc) ∧
  (∀ (x : Regs) (d : Dest) (f : FFlags), let y := x.land d f
    y.sreg 0 = 0 ∧ y.pred 0 = true ∧ y.mask 0 = BitVec.allOnes 512 ∧ y.fpctl = x.fpctl ||| (f.zeroExtend 64 <<< 16) ∧
    y.vshape = x.vshape ∧ y.taskkey = x.taskkey ∧ y.sampth = x.sampth ∧ y.accw = x.accw ∧ y.psw = x.psw ∧ y.next = x.next ∧
    y.thandler = x.thandler ∧ y.inh = x.inh ∧ y.wakepend = x.wakepend ∧
    (∀ q, q < 64 → y.sreg q = match d with | .sreg r v => if r.toNat = q ∧ q ≠ 0 then v else x.sreg q | _ => x.sreg q) ∧
    (∀ q, q < 8 → y.pred q = match d with | .pred r v => if r.toNat = q ∧ q ≠ 0 then v else x.pred q | _ => x.pred q) ∧
    (∀ q, q < 8 → y.mask q = match d with
      | .mask r v en => if r.toNat = q ∧ q ≠ 0 then (x.mask q &&& ~~~en) ||| (v &&& en) else x.mask q | _ => x.mask q) ∧
    (∀ q : Fin 32, y.v[q] = match d with | .vec r v en => if r.toNat = q.val then (x.v[q] &&& ~~~en) ||| (v &&& en) else x.v[q] | _ => x.v[q]) ∧
    (∀ q : Fin 4, y.ps[q] = match d with | .latch r v => if r.toNat = q.val then v else x.ps[q] | _ => x.ps[q])) ∧
  (∀ (t : TileNo) (l : Load) (r : List Load) (s : State), let x := s.tileAt t.toNat
    x.loads = l :: r → l.ready ≤ s.now → l.req = none → x.fixedBefore l = false →
    ∃ y, exec (.loadValueLands t) s = .next (s.setTile t.toNat y) ∧ y.regs = x.regs.land l.dest l.flags ∧ y.loads = r ∧
      y.drains = x.drains ∧ y.acc = x.acc) ∧
  (∀ (t : TileNo) (l : Load) (e : Option AsyncEv) (r : List (Load × Option AsyncEv)) (s : State), let x := s.tileAt t.toNat
    x.loads = [] → x.drains = (l, e) :: r → l.ready ≤ s.now →
    ∃ y, exec (.loadValueLands t) s = .next (s.setTile t.toNat y) ∧ y.regs = x.regs.land l.dest l.flags ∧ y.drains = r ∧ y.acc = x.acc) ∧
  (∀ (i : Instr) (s : State) (h : Hdr) (d : SReg) (lat : Nat) (a b c : Word), arith i s = some (h, d, lat, a) →
    arith i (soon 1 s) = some (h, d, lat, b) → arith i (soon 2 s) = some (h, d, lat, c) → h.v = true → guardOf h s.tile.regs = true →
    let l := fun (x : Word) => (⟨s.now + 2 + lat, s.tile.iw.seq, .sreg d x, 0⟩ : Landing)
    ∃ t, exec i s = .next t ∧ t.tile.votes = s.tile.votes ++ [⟨l a, l b, l c, 32⟩]) ∧
  (∀ (t : TileNo) (v : Vote) (r : List Vote) (s : State), let x := s.tileAt t.toNat
    x.votes = v :: r → v.a.cyc ≤ s.now →
    (v.a = v.b → v.b = v.c → ∃ l, exec (.voteWriteback t) s = .next (s.modTile t.toNat fun x => { x with votes := r, inflight := x.inflight ++ [l] }) ∧
      l.dest = v.a.dest ∧ l.flags = v.a.flags ∧ l.cyc = v.a.cyc) ∧
    (∀ q x y z, v.a.dest = .sreg q x → v.b.dest = .sreg q y → v.c.dest = .sreg q z → x ≠ y → y ≠ z → x ≠ z →
      exec (.voteWriteback t) s = .next (s.mismatch t.toNat v.a.seq)) ∧
    (∀ q x y, v.a.dest = .sreg q x → v.b.dest = .sreg q x → v.c.dest = .sreg q y → x ≠ y → v.a.flags = v.b.flags →
      ∃ l, l.dest = .sreg q x ∧ exec (.voteWriteback t) s =
        .next ((s.modTile t.toNat fun x => { x with votes := r, inflight := x.inflight ++ [l] }).modDie (t.toNat / 128)
          fun d => { d with votefix := satInc d.votefix }))) ∧
  (∀ (t : TileNo) (q : Nat) (dl : Word) (m : BitVec 3) (w : Vector (BitVec 48) 4) (s : State), let x := s.tileAt t.toNat
    x.waite = some (q, dl, m, w) →
    exec (.waiteEvent t) s = .next (
      if x.waited = true ∨ (m.getLsbD 0 = true ∧ dl ≤ (s.die (t.toNat / 128)).cyc) ∨
          (m.getLsbD 1 = true ∧ w.toList ≠ [x.tidst 0, x.tidst 1, x.tidst 2, x.tidst 3])
      then s.modTile t.toNat fun x => { x with waite := none, waited := false, wake := true, occ := { x.occ with s := max x.occ.s (s.now + 1) } }
      else s)) ∧
  (∀ (t : TileNo) (w : Word) (i : Instr) (s : State), let x := s.tileAt t.toNat
    s.dutyHeld t.toNat = false → x.fetchOpen s.now = true → x.fetched = .ok (w, i) → x.closeBefore i = none → x.thirdChunk = false →
    (x.queue.filter fun q => q.slot.eng == engineOf (opOf w).toNat).length < 16 →
    ∃ y q r, exec (.wordDelivery t) s = .next (s.setTile t.toNat y) ∧ y.queue = x.queue ++ q :: r ∧ q.word = i ∧ q.slot.raw = w ∧
      q.slot.idx = x.fetch.pc ∧ q.slot.seq = x.nseq ∧ q.at_ = s.now)

/-- A settled chunk requests its commit 2 tc after the Understudy has matched it, or is squashed on a mismatch; a local chunk commits 8 tc
later, others when the grant of their die has taken their request and its receivers have acknowledged it; the grant passes on after 16
commits, 32 tc or the last request, a solo request is granted when none is held, a committed command enters its engine 8 tc after its
issue, and a committed store reaches its home.  Rests on the model's choices of log 52, 55 and 95. -/
def Obligations.ChunksCommit : Prop :=
  (∀ (t : TileNo) (c : Chunk) (s : State), let x := s.tileAt t.toNat
    x.oldest = some c → x.task.isSome = true → x.cancelled = false → c.ended = true → c.issued = c.count → 0 < c.count → c.requested = none →
    x.bnd = none → x.settled c = true → max c.lastAt (c.lastS + 8) + 2 ≤ s.now → x.waiteIn c = false →
    exec (.commitRequest t) s = .next (
      if c.upset || c.held.any (·.upset) then (s.modTile t.toNat fun x => { x with undstat := satInc x.undstat }).mismatch t.toNat c.first
      else if c.shared = false ∧ c.effects = [] then s.modTile t.toNat fun x => x.modOldest fun c => { c with requested := some s.now }
      else (s.modTile t.toNat fun x => x.modOldest fun c => { c with requested := some s.now }).modDie (t.toNat / 128)
        fun d => { d with requests := d.requests ++ [t.toNat] })) ∧
  (∀ (t : TileNo) (c : Chunk) (r : Nat) (s s1 : State), let x := s.tileAt t.toNat
    x.oldest = some c → c.shared = false → c.effects = [] → c.requested = some r → r + 8 ≤ s.now → x.cancelled = false → s.opsPending = false →
    (begun s).performCommit t.toNat = s1 → (Alone s ∨ Unasked s1) →
    exec (.localCommit t) s = .next (tried s s1)) ∧
  (∀ (t : Nat) (c : Chunk) (s : State), let x := s.tileAt t
    Assoc.wf Tile.idle s.others = true → x.oldest = some c → s.soloTile = none →
    (∀ u ∈ s.tiles, u ≠ t → ∀ d, (s.tileAt u).older = some d ∨ (s.tileAt u).cur = some d → d.conflicts c.writes = false) →
    (x.older.isSome = true → ∀ d, x.cur = some d → d.doomed = false) →
    c.solo = false → c.attempt ≠ 4 → x.solo = false → x.unsent = [] → c.effects = [] → c.bnd = none → c.exc = [] → c.trap = none →
    c.safept = none → c.exits = false →
    (∀ k st, c.stores[k]? = some st → ∀ e ∈ st.cells,
      ({ s with wb := s.wb ++ c.stores.take k } : State).guarded e.1 = false ∧ e.2.1 &&& e.2.2 ≠ 1) →
    let y := s.performCommit t
    y.commitNo = s.commitNo + 1 ∧ y.mem = s.mem ∧ (y.tileAt t).older = none ∧ (y.tileAt t).cur = (if x.older.isSome then x.cur else none) ∧
    (y.tileAt t).regs = x.regs ∧
    ∃ l, y.wb = s.wb ++ l ∧ l.map (·.cells) = c.stores.map (·.cells) ∧ ∀ st ∈ l, st.commitNo = s.commitNo) ∧
  (∀ (d : DieNo) (s : State), s.grant = d.toNat → s.grantAt ≤ s.now →
    let waiting := (s.die d.toNat).requests.filter fun t => s.requestedFor t 0
    let turned := ({ s with grant := (d.toNat + 1) % 4, grantAt := s.now + 6, served := 0 } : State)
    (s.serving = none → waiting = [] ∨ 16 ≤ s.served ∨ s.grantAt + 32 ≤ s.now → exec (.grantArrive d) s = .next turned) ∧
    (∀ t r, s.serving = none → waiting = t :: r → s.served < 16 → s.now < s.grantAt + 32 →
      let u := match s.soloTile with | some u => if u ∈ waiting then u else t | none => t
      exec (.grantArrive d) s = .next { s with serving := some (u, s.ackAt u) } ∧
      ∀ c, (s.tileAt u).oldest = some c → ∃ k, s.ackAt u = max (s.now + k) (c.requested.getD 0 + 40) ∧ (k = 12 ∨ k = 24)) ∧
    (∀ t c, s.serving = some (t, c) → t ∈ waiting → s.now < c ∨ s.opsPending = true → exec (.grantArrive d) s = .next s) ∧
    (∀ t c, s.serving = some (t, c) → t ∉ waiting → exec (.grantArrive d) s = .next { s with serving := none }) ∧
    (∀ t c s1, s.serving = some (t, c) → t ∈ waiting → c ≤ s.now → s.opsPending = false → (begun s).performCommit t = s1 →
      ((Alone s ∧ ∀ x, (s.tileAt t).oldest = some x → ∀ e ∈ x.effects, ∀ off v, e.2 ≠ .window off v) ∨ Unasked s1) →
      exec (.grantArrive d) s = .next (tried s { s1 with serving := none, served := s.served + 1 }))) ∧
  (∀ (t : Nat) (r : List Nat) (s : State), s.soloTile = none → s.soloQueue = t :: r →
    (∀ u ∈ s.tiles, (s.tileAt u).soloWant = true → u ∈ s.soloQueue) →
    exec .soloGrant s = .next (({ s with soloTile := some t, soloQueue := r } : State).modTile t fun x => x.goSolo s.now)) ∧
  (∀ (x : Tile) (now : Nat), (x.goSolo now).solo = true ∧ (x.goSolo now).soloWant = false ∧
    ((∀ c, x.cur = some c → c.attempt ≠ 5) → x.goSolo now = { x with solo := true, soloWant := false })) ∧
  (∀ (t : TileNo) (c : Cmd) (r : List Cmd) (s : State), (s.tileAt t.toNat).released = c :: r → c.issued + 8 ≤ s.now →
    (c.upset = false → exec (.understudyCommandMatch t) s = .next (s.modTile t.toNat fun x => { x with
        released := r
        mqueue := match c.follow with | some f => x.mqueue ++ [c.followCmd f] | none => if c.op.isCopy then x.mqueue else x.mqueue ++ [c]
        chans := if c.op.isCopy then vset x.chans c.ch.toNat (vget x.chans c.ch.toNat ++ [c]) else x.chans })) ∧
    (c.upset = true →
      let y := s.modTile t.toNat fun x => { x with undstat := satInc x.undstat, released := { c with upset := false, issued := s.now } :: r }
      exec (.understudyCommandMatch t) s = .next (match (s.tileAt t.toNat).oldest with | some o => y.mismatch t.toNat o.first | none => y))) ∧
  (∀ (i pa : Nat) (st : Store) (x : Nat × Byte × Byte) (r : List (Nat × Byte × Byte)) (s s1 : State), s.drainable = some i → s.wb[i]? = some st →
    st.upset = false → st.node = none → st.cells = x :: r →
    ({ s with wb := s.wb.eraseIdx i } : State).arriveHome st.tile st.seqNo x.1 st.gen st.redirected = .apply pa s1 →
    ∃ y, exec .storeDrain s = .next y ∧ y.wb = s1.wb ∧
      y.mem = Memory.writeCells s1.mem (st.cells.map fun c => (c.1 + pa - x.1, c.2)))

/-- A fresh task begins with its arguments, region and key in s1 to s7 and all else clear; the Better-most dispatchable entry starts, a
load reads its program-table entry and runs when its time has come, a saved task leaves with what its save holds, a forced save moves on
when its limit has passed, an ended tile becomes free, and a failed tile leaves its partition once it is free, its pinned bytes with it. 
Rests on the model's choices of log 36, 53, 67, 114 and 115. -/
def Obligations.TasksStartAndLeaveTheirTile : Prop :=
  (∀ (x : Tile) (k : Task) (pl : Bool) (c : Nat), let y := x.begin k pl c
    (∀ r, r < 64 → y.regs.sreg r = if 1 ≤ r ∧ r ≤ 5 then vget k.blk.args (r - 1) else if r = 6 then k.blk.region.zeroExtend 64
      else if r = 7 then k.ek.zeroExtend 64 else 0) ∧
    (∀ n, 1 ≤ n → n < 8 → y.regs.pred n = false ∧ y.regs.mask n = 0) ∧ y.regs.fpctl = 0 ∧ y.regs.thandler = 0 ∧ y.regs.inh = false ∧
    (∀ r : Fin 32, y.regs.v[r] = 0) ∧ y.fetch.pc = 0 ∧ y.plane = pl ∧ y.fresume = c + 1 ∧ y.fstop = false ∧ y.inflight = []) ∧
  (∀ (d : DieNo) (e : Entry) (t : Nat) (s s1 : State), (s.die d.toNat).dispAt ≤ (s.die d.toNat).cyc.toNat →
    pickEntry d.toNat (s.die d.toNat).floor (sortBy Entry.better (s.die d.toNat).heap) (begun s) = (some (e, t), s1) → e.upset = false →
    (Alone s ∨ Unasked (s1.startEntry d.toNat e t)) → exec (.dispatch d) s = .next (tried s (s1.startEntry d.toNat e t))) ∧
  (∀ (t : TileNo) (c : Nat) (s : State), (s.tileAt t.toNat).loading = some c → (s.tileAt t.toNat).task.isSome = true →
    (s.tileAt t.toNat).gate = .awake →
    (∀ s1, (s.tileAt t.toNat).loadEntry = none → (begun s).beginLoad t.toNat = s1 → (Alone s ∨ Unasked s1) →
      exec (.programLoad t) s = .next (tried s s1)) ∧
    (∀ w k, (s.tileAt t.toNat).loadEntry = some (w, k) → s.now < c → exec (.programLoad t) s = .next s) ∧
    (∀ w k s1, (s.tileAt t.toNat).loadEntry = some (w, k) → c ≤ s.now → (begun s).loadProgram t.toNat w k = s1 → (Alone s ∨ Unasked s1) →
      exec (.programLoad t) s = .next (tried s s1))) ∧
  (∀ (t : TileNo) (s : State), (s.tileAt t.toNat).cancelEnd = false → (s.tileAt t.toNat).ended = true → s.tileQuiet321 t.toNat = true →
    exec (.tileFree t) s = .next (s.modTile t.toNat fun x => { x with ended := false })) ∧
  (∀ (t : TileNo) (s s1 : State), (s.tileAt t.toNat).cancelEnd = true → (begun s).endCancelled t.toNat = s1 →
    (Alone s ∨ Unasked s1) → exec (.tileFree t) s = .next (if ((tried s s1).tileAt t.toNat).ended && (tried s s1).tileQuiet321 t.toNat
      then (tried s s1).modTile t.toNat fun x => { x with ended := false } else tried s s1)) ∧
  (∀ (t : TileNo) (why : SaveWhy) (s s1 : State), let x := s.tileAt t.toNat
    x.saving = some why → x.task.isSome = true → x.cancelled = false → x.gate = .awake → x.windows = Vector.replicate 2 none →
    x.waitsLong = false → x.saveReady why = true → s.sentDone t.toNat = true → 0 < (s.die (t.toNat / 128)).freeSlots →
    (begun s).saveNow t.toNat why = s1 → (Alone s ∨ Unasked s1) → exec (.saveComplete t) s = .next (tried s s1)) ∧
  (∀ (s : State) (t m : Nat), let v := s.savedOf t (.safept m)
    let w0 := (s.tileAt t).progWord m
    let w1 := (s.tileAt t).progWord (m + 1)
    (∀ r, 0 < r → r < 64 → v.regs.sreg r = if w0.getLsbD r then (s.tileAt t).regs.sreg r else 0) ∧
    (∀ r : Fin 32, v.regs.v[r] = if w1.getLsbD r.val then (s.tileAt t).regs.v[r] else 0) ∧
    v.fetch.pc = (s.tileAt t).fetch.pc ∧ v.regs.fpctl = (s.tileAt t).regs.fpctl) ∧
  (∀ (t : TileNo) (s s1 : State), (begun s).watchdogDue t.toNat (begun s) = (true, s1) →
    (Alone s ∨ Unasked (s1.watchdogMove t.toNat)) → exec (.watchdogSave t) s = .next (tried s (s1.watchdogMove t.toNat))) ∧
  (∀ (t : TileNo) (p v : Nat) (s : State), s.place t.toNat = some (p, v) → (s.tileAt t.toNat).failed = true → s.stopped.contains p = false →
    s.shrinks = [t.toNat] → s.pinMoves = [] →
    (∀ s1, s.partCount p ≤ 4 → ((begun s).stopPartition p).shrunk t.toNat = s1 → (Alone s ∨ Unasked s1) →
      exec (.partitionShrink t) s = .next (tried s s1)) ∧
    (∀ s1, 4 < s.partCount p →
      let last := (s.virt p (s.partCount p - 1)).getD t.toNat
      let busy := fun u => (s.tileAt u).task.isSome || (s.tileAt u).ended
      (busy t.toNat = true ∨ busy last = true → exec (.partitionShrink t) s = .next ((s.askShrink t.toNat).askShrink last)) ∧
      (busy t.toNat = false → busy last = false → (shrinkNow t.toNat p v (begun s)).2 = s1 → (Alone s ∨ Unasked s1) →
        exec (.partitionShrink t) s = .next (tried s s1)))) ∧
  (∀ (src dst n : Nat) (r : List (Nat × Nat × Nat)) (s : State), s.pinMoves = (src, dst, n) :: r → Sound s →
    exec .pinMoveDone s = .next { s.homeWrite dst ((List.range n).map fun i => BitVec.ofNat 8 (s.home (src + i) 1)) with pinMoves := r })

/-- The operation at the head of a die's queue is applied; keys age by AGERATE and are floored by an applied BOOST; promotion, LIMIT,
refill and rebalancing take the entries that are due; renumbering keeps the counter and gives each live entry the number of its rank. 
Rests on the model's choices of log 58, 59, 91, 101, 111 and 113. -/
def Obligations.QueuedEntriesAreKept : Prop :=
  (∀ (d : DieNo) (op : DieOp) (r : List DieOp) (s s1 : State), (s.die d.toNat).ops = op :: r →
    (∀ who region tile home no sel, op = .cancel who region tile home no sel → (begun s).cancelHead d.toNat = s1 → (Alone s ∨ Unasked s1) →
      exec (.cancelApply d) s = .next (tried s s1)) ∧
    (∀ who region mtch key t, op = .repri who region mtch key t → repriOn d.toNat who region mtch key t (begun s) = s1 → (Alone s ∨ Unasked s1) →
      exec (.repriApply d) s = .next (tried s s1))) ∧
  (∀ (e : Entry) (ek boost : BitVec 32) (rate n : Nat) (ctx : BitVec 16) (f : BitVec 32) (w : Word),
    (e.rekey ek boost).ek.toNat = (if e.boosted then max ek.toNat boost.toNat else ek.toNat) ∧ (e.rekey ek boost).seq = e.seq ∧
    (ageKey ek rate n).toNat = min (ek.toNat + rate * n) 0xFFFFFFFF ∧
    (e.matches ctx f w = true ↔ e.ctx = ctx ∧ e.blk.region = f ∧ vget e.blk.args 0 = w)) ∧
  (∀ (d : DieNo) (s s1 : State), let x := s.die d.toNat
    let k := x.cyc.toNat / 4096
    (k ≤ x.ageStep → exec (.ageingStep d) s = .next s) ∧
    (x.ageStep < k → (x.queuedNow.filter fun e => e.enq < k * 4096) = [] →
      exec (.ageingStep d) s = .next (tried s ((begun s).modDie d.toNat fun x => { x with ageStep := k, dispAt := max x.dispAt (x.cyc.toNat + 1) }))) ∧
    (∀ e, x.ageStep < k → (x.queuedNow.filter fun e => e.enq < k * 4096) = [e] →
      let z := (begun s).modDie d.toNat fun x => { x with ageStep := k, dispAt := max x.dispAt (x.cyc.toNat + 1) }
      (ageOne d.toNat 1 e z).2.modDie d.toNat (fun x => x.mapQueued (fun y => y == e) fun _ => (ageOne d.toNat 1 e z).1) = s1 → (Alone s ∨ Unasked s1) →
      exec (.ageingStep d) s = .next (tried s s1))) ∧
  (∀ (d : DieNo) (s s1 : State), ((s.die d.toNat).queuedNow.forM (promoteOne d.toNat) (begun s)).2 = s1 → (Alone s ∨ Unasked s1) →
    exec (.deadlinePromote d) s = .next (tried s s1)) ∧
  (∀ (d : DieNo) (s s1 : State),
    ((s.die d.toNat).queuedNow.forM (fun e => do let _ ← limitOne d.toNat true e) (begun s)).2 = s1 → (Alone s ∨ Unasked s1) →
    exec (.deadlineLimit d) s = .next (tried s s1)) ∧
  (∀ (d : DieNo) (e : Entry) (r : List Entry) (k : Nat) (s s1 : State), let x := s.die d.toNat
    x.heapCount < 65536 → x.refillAt = some k → k ≤ x.cyc.toNat → Assoc.get [] x.topBucket x.buckets = e :: r →
    (refillOne d.toNat e ((begun s).modDie d.toNat fun x =>
      { x with buckets := Assoc.set [] x.topBucket r x.buckets, refillAt := none })).2 = s1 → (Alone s ∨ Unasked s1) →
    exec (.refill d) s = .next (tried s s1)) ∧
  (∀ (x : Die), x.armRefill = { x with refillAt := if x.heapCount < 65536 ∧ x.spilled = true then some (x.refillAt.getD (x.cyc.toNat + 8)) else none }) ∧
  (∀ (d : DieNo) (s : State), let x := s.die d.toNat
    (x.renum = true → exec (.renumberSweep d) s = .next (s.modDie d.toNat fun x => { x with renum := false })) ∧
    (∀ q, x.renum = false → x.ranks.getLast? = some q →
      exec (.renumberSweep d) s = .next (if 2 ^ 30 < (x.seq - q).toNat then s.modDie d.toNat Die.renumber else s))) ∧
  (∀ (x : Die), x.renumber.seq = x.seq ∧ x.renumber.renum = true ∧ x.renumber.heap.map (·.ek) = x.heap.map (·.ek) ∧
    ∀ e ∈ x.heap, ∀ k, x.ranks.findIdx? (fun q => q == e.seq) = some k → { e with seq := x.seq - BitVec.ofNat 32 (k + 1) } ∈ x.renumber.heap) ∧
  (∀ (d : DieNo) (s : State), let x := s.die d.toNat
    x.rebalStep < x.cyc.toNat / 1024 → x.rebalEn = false →
    exec (.rebalancePeriod d) s = .next (tried s ((begun s).modDie d.toNat fun x => { x with rebalStep := x.cyc.toNat / 1024 }))) ∧
  (∀ (d : DieNo) (s s1 : State), let x := s.die d.toNat
    let z := (begun s).modDie d.toNat fun x => { x with rebalStep := x.cyc.toNat / 1024 }
    let parts := x.heap.foldl (fun l e => insertNat (z.ctxPart e.ctx) l) []
    x.rebalStep < x.cyc.toNat / 1024 → x.rebalEn = true →
    (((List.range 4).filter (· != d.toNat)).forM (fun b => rebalTo d.toNat b parts) z).2 = s1 → (Alone s ∨ Unasked s1) →
    exec (.rebalancePeriod d) s = .next (tried s s1)) ∧
  (∀ (d : DieNo) (a : Nat) (e : Entry) (s s1 : State), s.moveOver d.toNat = some (a, e) →
    let z := (begun s).modDie a fun x => { x with moves := x.moves.erase (d.toNat, e) }
    let y := takeSeq d.toNat z
    (heapArrive (y.2.agent d.toNat e.ctx) d.toNat
      { e with seq := y.1, moving := none, enq := (y.2.die d.toNat).cyc.toNat, limited := false } y.2).2 = s1 → (Alone s ∨ Unasked s1) →
    exec (.rebalanceMoveDone d) s = .next (tried s s1)) ∧
  (∀ (d : DieNo) (a : Nat) (e : Entry) (s : State), s.moveOver d.toNat = some (a, e) → a < 4 ∧ (d.toNat, e) ∈ (s.die a).moves ∧
    ∃ m, e.moving = some m ∧ m ≤ (s.die a).cyc.toNat)

/-- The packet in turn is taken, LAUNCH and unknown kinds by the reader, COPY by the queue copy engine, CKPT by the Glaze engine, and the
turn goes on; a member joins the backlog of its class, slots whose point has come close, and a closed batch goes out.  Rests on the
model's choices of log 14, 60, 61 and 99. -/
def Obligations.PacketsAndMembersAreTaken : Prop :=
  (∀ (t : Machine.Turn) (s s1 : State), nextTurn (begun s) = (some t, s1) →
    (t.kind ≠ 2 → t.kind ≠ 3 → (Alone s ∨ Unasked (launchTurn t s1).2) → exec .launchPacket s = .next (tried s ((launchTurn t s1).2.turned t))) ∧
    (∀ w, t.kind = 2 → t.found = .packet w → (Alone s ∨ Unasked (copyTurn t w s1).2) → exec .copyPacket s = .next (tried s ((copyTurn t w s1).2.turned t))) ∧
    (∀ w, t.kind = 3 → t.found = .packet w → (Alone s ∨ Unasked (ckptTurn t w s1).2) → exec .ckptPacket s = .next (tried s ((ckptTurn t w s1).2.turned t)))) ∧
  (∀ (d : DieNo) (e : Entry) (r : List Entry) (s s1 : State), (s.die d.toNat).chIn = e :: r →
    (chorusArrive (s.agent d.toNat e.ctx) d.toNat e ((begun s).modDie d.toNat fun x => { x with chIn := r })).2 = s1 → (Alone s ∨ Unasked s1) →
    exec (.chorusArrival d) s = .next (tried s s1)) ∧
  (∀ (g : Agent) (d : DieNo) (e : Entry) (s : State), let z := s.modDie d.toNat Die.settle
    let i := e.blk.bclass.toNat - 1
    (vget (z.die d.toNat).ch i).entersNow = true →
    (chorusArrive g d.toNat e s).2 = z.modDie d.toNat fun x =>
      { x with ch := vset x.ch i ({ vget x.ch i with backlog := queueIn (vget x.ch i).backlog e }.settle x.cyc.toNat) }) ∧
  (∀ (d : DieNo) (s : State), exec (.chorusWindowClose d) s =
    .next (s.modDie d.toNat fun x => { x with ch := x.ch.map fun c => c.settle x.cyc.toNat })) ∧
  (∀ (d : DieNo) (i : Nat) (b : Bool) (s s1 : State), i < 16 → (vget (s.die d.toNat).ch i).closing ≠ [] →
    (vget (s.die d.toNat).ch i).busy0 = b → (vget (s.die d.toNat).ch i).busy1 = false →
    (∀ j, j < i → (vget (s.die d.toNat).ch j).closing = []) → (batchOut d.toNat i b (begun s)).2 = s1 → (Alone s ∨ Unasked s1) →
    exec (.chorusListWrite d) s = .next (tried s s1)) ∧
  (∀ (e : Entry), e.listed = [vget e.blk.args 0, vget e.blk.args 1, vget e.blk.args 2, vget e.blk.args 3, vget e.blk.args 4,
    BitVec.ofNat 64 (e.ek.toNat * 2 ^ 32 + e.blk.region.toNat)])

/-- A trap that reaches its handler saves the start state in the tile's frame, sets TCAUSE, TEPC, TVAL and INH, empties what is in flight
and moves fetch to THANDLER; a deferred fault squashes its chunk or traps a lone word; an asynchronous event truncates its chunk first,
and is taken once the frame can be formed.  Rests on the model's choices of log 64, 66, 86 and 89. -/
def Obligations.TrapsEnterTheirHandler : Prop :=
  (∀ (s : State) (x : StartState) (f : Fetch) (r : TrapRec) (restart : Bool), let y := s.enterHandler x f r restart
    let tc := tcauseWord r.cause s.tile.intr.isSome r.engine restart (s.tile.lost && r.engine)
    y.tile.regs = { x.regs with inh := true } ∧ y.tile.tcause = tc ∧ y.tile.tepc = BitVec.ofNat 64 r.epc ∧ y.tile.tval = r.tval ∧
    y.tile.fetch.pc = fld x.regs.thandler 12 0 ∧ (∀ k : Fin 3, y.tile.fetch.loops[k].active = false) ∧ y.tile.inflight = [] ∧ y.tile.votes = [] ∧
    y.tile.cur = none ∧ y.tile.older = none ∧ y.tile.fstop = false ∧ y.tile.acc = s.tile.acc ∧ y.tile.loads = s.tile.loads ∧
    y.mem = Memory.write s.mem (0x40000000000 + s.tileId * 0x400000 + 0x2FA000) (frameBytes x f tc r.epc r.rpc r.tval) ∧
    (frameBytes x f tc r.epc r.rpc r.tval).length = 0x5800) ∧
  (∀ (t : TileNo) (r : TrapRec) (s s1 : State), let x := s.tileAt t.toNat
    x.trap = some r → x.runs = true → x.older = none → x.cur = none → x.pendingS = [] → x.loads = [] → x.votes = [] →
    ((begun s).modTile t.toNat fun x => { x with trap := none }).takeTrap t.toNat x.snap x.fetch r false = s1 → (Alone s ∨ Unasked s1) →
    exec (.trapTake t) s = .next (tried s s1)) ∧
  (∀ (s : State) (st : StartState) (f : Fetch) (r : TrapRec) (restart : Bool), st.regs.inh = false → st.regs.thandler ≠ 0 →
    s.takeTrap s.tileId st f r restart = s.enterHandler st f r restart) ∧
  (∀ (s : State) (t : Nat) (st : StartState) (f : Fetch) (r : TrapRec) (restart : Bool), st.regs.inh = false → st.regs.thandler = 0 →
    s.takeTrap t st f r restart = s.faultEnd t) ∧
  (∀ (t : TileNo) (d : Deferred) (c : Chunk) (s : State), let x := s.tileAt t.toNat
    x.deferred = some d → x.task.isSome = true → x.cancelled = false → x.chunkOf d.seq = some c →
    ∃ y, exec (.deferredFault t) s = .next ((if x.inOlder d.seq then s.dropRequest t.toNat else s).setTile t.toNat y) ∧ y.deferred = none ∧ y.trunc = false ∧
      (c.lone = true → c.first = d.seq → y.cur = none ∧ y.fstop = true ∧
        (d.park = none → y.trap = some ⟨d.cause, d.idx, d.tval, d.idx, false⟩) ∧ (∀ p, d.park = some p → y.saving = some (.park p false)))) ∧
  (∀ (t : TileNo) (e : AsyncEv) (s : State), let x := s.tileAt t.toNat
    x.runs = true → (∀ c, x.cur = some c → c.count ≠ 0 ∨ c.taken = none) → x.nextAsync = some e → x.regs.inh = false → x.faulty = false →
    (e.cause ≠ causeInterrupt ∨ x.regs.thandler ≠ 0) →
    (x.trunc = false → exec (.asyncTrapTake t) s = .next (s.truncate t.toNat)) ∧
    (∀ s1, x.trunc = true → x.framed = true → (x.regs.thandler ≠ 0 ∨ x.cur = none) →
      ((begun s).modTile t.toNat Tile.popAsync).takeAsync t.toNat ⟨e.cause, x.fetch.pc, e.tval, x.fetch.pc, e.engine⟩ false = s1 →
      (Alone s ∨ Unasked s1) → exec (.asyncTrapTake t) s = .next (tried s s1)))

/-- The command at the head of the matrix queue starts when its operands and the scoreboard let it, takes its time (R182), and then has
its effect on its accumulator: an MMA adds its products, MZERO clears, MTILE opens a window, MDRAIN and MSTORE deliver the rounded
entries, MSTORE four sectors in a tc.  A channel starts its oldest transfer, each sector lands its bytes or fails the transfer, and a
transfer that is over completes.  Rests on the model's choices of log 69, 71 and 77. -/
def Obligations.EnginesRunTheirCommands : Prop :=
  (∀ (t : TileNo) (c : Cmd) (r : List Cmd) (s : State), let x := s.tileAt t.toNat
    x.mqueue = c :: r → c.waitsCopy = false → ∀ e, matrixEvent c.op t = some e →
    (x.mstart = none → x.scoreHeld c = false → x.operandsDue c = false →
      exec e s = .next (s.modTile t.toNat fun y => { y.closeFor c with mstart := some s.now })) ∧
    (∀ b, x.mstart = some b → s.now < b + c.op.time → exec e s = .next s) ∧
    (∀ b, x.mstart = some b → b + c.op.time ≤ s.now →
      (∀ a, c.op = .mzero a → exec e s = .next (s.matrixEnd t.toNat c (Acc.clear true))) ∧
      (∀ a, c.op = .mtile a → exec e s = .next ((s.matrixEnd t.toNat c (accOf x a)).modTile t.toNat fun y =>
        { y with windows := vset y.windows a.toNat (if c.orphan then none else some ⟨accOf x a, [], none, [], false, false⟩) })) ∧
      (∀ a p q kk pr zero twin z, c.op = .mma a p q kk pr zero twin → c.copyDone ≠ some false → (∀ w, x.windowOf a.toNat = some w → w.replay = false) →
        mmaOn (s.identAgent c.who) c p q kk pr zero twin (accOf x a) (begun s) = z →
        (∀ y f s1, z = (.ok (y, f), s1) → (Alone s ∨ Unasked s1) →
          exec e s = .next (tried s ((s1.matrixEnd t.toNat c y).engineFlags t.toNat c f))) ∧
        (∀ k v s1, z = (.error (.fault k v), s1) → (Alone s ∨ Unasked s1) →
          exec e s = .next (tried s (s1.matrixFault t.toNat c ((accOf x a).begin zero twin) k v)))) ∧
      (∀ a vd ty rm, c.op = .mdrain a vd ty rm → x.windowOf a.toNat = none → ((accOf x a).armed = false ∨ (accOf x a).agrees = true) → c.orphan = false →
        exec e s = .next (tried s (((begun s).matrixEnd t.toNat c (accOf x a)).modTile t.toNat fun y =>
          { y with drains := y.drains ++ drainLands c vd ty (s.now + 16) ((accOf x a).drained c ty rm) }))) ∧
      (∀ a base rp ty rm, c.op = .mstore a base rp ty rm → let n := outRow ty / 32
        (x.mwrite = none → x.windowOf a.toNat = none → ((accOf x a).armed = false ∨ (accOf x a).agrees = true) →
          exec e s = .next (tried s ((begun s).modTile t.toNat fun y => { y with acc := vset y.acc a.toNat (accOf x a), mwrite := some (0, []) }))) ∧
        (∀ k l, x.mwrite = some (k, l) → s.now < b + c.op.time + k / 4 → exec e s = .next s) ∧
        (∀ k l m s1, x.mwrite = some (k, l) → b + c.op.time + k / 4 ≤ s.now → k < 128 * n →
          storeSector { s.identAgent c.who with keep := l } c ty (base + BitVec.ofNat 64 (k / n * rp + k % n * 32))
            ((((accOf x a).row c ty rm (k / n)).1.drop (k % n * 32)).take 32) (begun s) = (.ok m, s1) → (Alone s ∨ Unasked s1) →
          exec e s = .next (tried s (s1.modTile t.toNat fun y => { y with mwrite := some (k + 1, m ++ l.filter fun e => !m.contains e) }))) ∧
        (∀ k l, x.mwrite = some (k, l) → b + c.op.time + k / 4 ≤ s.now → 128 * n ≤ k →
          exec e s = .next (tried s (((begun s).matrixEnd t.toNat c (accOf x a)).engineFlags t.toNat c ((accOf x a).storeFlags c ty rm))))))) ∧
  (∀ (t : Nat) (c d : Cmd) (r : List Cmd) (x : Acc) (s : State), Assoc.wf Tile.idle s.others = true → (s.tileAt t).mqueue = d :: r → c.op.acc < 2 →
    let y := s.matrixEnd t c x
    (y.tileAt t).mqueue = r ∧ (y.tileAt t).mstart = none ∧ vget (y.tileAt t).acc c.op.acc = x ∧
    vget (y.tileAt t).acc (1 - c.op.acc) = vget (s.tileAt t).acc (1 - c.op.acc) ∧ (y.tileAt t).regs = (s.tileAt t).regs ∧ y.mem = s.mem) ∧
  (∀ (g : Agent) (c : Cmd) (ra rb : VReg) (kk : Nat) (p : Pair) (zero twin : Bool) (x : Acc) (s : State),
    let n := if p == .bf16bf16 then 1 else 16
    kk % n = 0 → ∃ ia ib y f, mmaOn g c (.regs ra) (.regs rb) kk p zero twin x s = (.ok (y, f), s) ∧
      (∀ i k, ia.code i k = (s.tileAt c.who.tile).opdCode s.now ra.toNat p.tyA kk i k) ∧
      (∀ j k, ib.code j k = (s.tileAt c.who.tile).opdCode s.now rb.toNat p.tyB kk j k) ∧
      ∀ i j, i < 128 → j < 64 →
        y.at_ (i * 64 + j) = mmaEntry p (fpFiz c.fpctl) (lsbExp c.window) kk n ia ib i j ((x.begin zero twin).at_ (i * 64 + j))) ∧
  (∀ (t : TileNo) (ch : BitVec 2) (c : Cmd) (r : List Cmd) (s : State), let x := s.tileAt t.toNat
    vget x.chans ch.toNat = c :: r → vget x.xfers ch.toNat = none → x.scoreHeld c = false →
    (x.windowHeld c = false ∨ ∃ d ∈ c :: r, x.matrixWaits d = true) →
    exec (.copyTransfer t ch) s = .next (s.modTile t.toNat fun y => { y.closeFor c with
      chans := vset y.chans ch.toNat r, xfers := vset y.xfers ch.toNat (some ⟨c, 0, 0, none, s.now + 1, 0, false, []⟩) })) ∧
  (∀ (w : XferAt) (f : Xfer) (s s1 : State), s.xferOn w = some f → f.fault = none → f.pos < f.cmd.total → f.waitFor ≤ s.now →
    (landSector w f (begun s) = (.ok (), s1) → (Alone s ∨ Unasked s1) → exec (.sectorLand w) s = .next (tried s s1)) ∧
    (∀ c v, landSector w f (begun s) = (.error (.fault c v), s1) → (Alone s ∨ Unasked s1) →
      exec (.sectorLand w) s = .next (tried s (s1.modXferOn w fun f => f.fail (statusOf c) v)))) ∧
  (∀ (c : Cmd) (pa : Nat) (b : List Byte) (s : State), (∀ i, i < b.length → s.guarded (pa + i) = false) → Memory.wf s.mem = true →
    ∃ y, s.engineWrite c pa b = s.settle y (cellsAt pa b) ∧ ∀ a, Memory.byte y.mem a =
      if pa ≤ a ∧ a < pa + b.length then b.getD (a - pa) 0 else Memory.byte s.mem a) ∧
  (∀ (t : TileNo) (ch : BitVec 2) (f : Xfer) (s : State), vget (s.tileAt t.toNat).xfers ch.toNat = some f → f.over = true → f.cmd.fut = false →
    exec (.transferComplete (.chan t ch)) s = .next (tried s (((begun s).dropPulls (.chan t ch)).channelEnd t.toNat ch f .set)))

/-- Gating begins after 256 idle tc, is complete 48 tc later, and ungating takes 96 tc; a wake aborts gating in its first 32 tc, is
latched after that, ungates a gated tile, ends a WAITE that selects it, and during a save sets WAKEPEND.  Stores to WAKE, INTR and PREQ
set the registers of the tile.  Rests on the model's choices of log 7 and 28. -/
def Obligations.TilesGateAndWake : Prop :=
  (∀ (t : TileNo) (s : State), let x := s.tileAt t.toNat
    x.gate = .awake → x.failed = false → x.wake = false → x.stir = false → (x.task = none ∨ x.waitsLong = true ∨ x.waite.isSome = true) → x.inflight = [] → x.votes = [] →
    x.loads = [] → x.drains = [] → x.activeCmds = [] → x.ended = false → x.idleSince + 256 ≤ s.now →
    exec (.gatingEntry t) s = .next (s.modTile t.toNat fun x => { x with gate := .entering s.now false })) ∧
  (∀ (t : TileNo) (e : Nat) (w : Bool) (s : State), (s.tileAt t.toNat).gate = .entering e w → e + 48 ≤ s.now →
    exec (.gatingComplete t) s = .next (s.modTile t.toNat fun x => { x with gate := if w then .ungating s.now else .gated })) ∧
  (∀ (t : TileNo) (e : Nat) (s : State), (s.tileAt t.toNat).gate = .ungating e → e + 96 ≤ s.now →
    exec (.ungateComplete t) s = .next (s.modTile t.toNat fun x => { x with gate := .awake, idleSince := s.now })) ∧
  (∀ (t : TileNo) (s : State), (s.tileAt t.toNat).wake = true →
    exec (.wakeMessage t) s = .next { s.modTile t.toNat (fun x => Tile.wakened { x with stir := false } s.now s.free) with free := s.free + 1 }) ∧
  (∀ (t : TileNo) (s : State), (s.tileAt t.toNat).wake = false → (s.tileAt t.toNat).stir = true →
    exec (.wakeMessage t) s = .next { s.modTile t.toNat (fun x => Tile.rouse { x with stir := false } s.now s.free) with free := s.free + 1 }) ∧
  (∀ (x : Tile) (now free : Nat), let y := x.wakened now free
    y.wake = false ∧
    y.waited = (x.waited || (match x.waite with | some w => w.2.2.1.getLsbD 2 && !(x.intr.isSome && x.regs.thandler != 0) | none => false)) ∧
    y.regs.wakepend = (x.regs.wakepend || x.beingSaved) ∧
    (x.gate = .awake → y.gate = .awake) ∧ (x.gate = .gated → y.gate = .ungating now) ∧ (∀ e, x.gate = .ungating e → y.gate = .ungating e) ∧
    (∀ e w, x.gate = .entering e w → now < e + 32 → y.gate = .awake ∧ y.idleSince = now ∧ y.fresume ≤ max x.fresume (now + 4)) ∧
    (∀ e w, x.gate = .entering e w → e + 32 ≤ now → y.gate = .entering e true)) ∧
  (∀ (t : TileNo) (s : State), exec (.wake t) s = .next (s.modTile t.toNat fun x => { x with wake := true, wakeReg := true })) ∧
  (∀ (t : TileNo) (v : Word) (s : State), exec (.intr t v) s = .next (s.modTile t.toNat fun x => if x.task.isNone then x else
      { x with intrReg := v.extractLsb' 0 16, intr := some (v.extractLsb' 0 16), wake := true })) ∧
  (∀ (t : TileNo) (v : Word) (s : State), exec (.preq t v) s = .next (s.modTile t.toNat fun x =>
      if x.task.isSome && v.getLsbD 0 then { x with preq := some (x.preq.getD (s.die (t.toNat / 128)).cyc.toNat), wake := true } else x))

/-- The scrub rereads the lines in error once per 2^27 tc; a walk holds the leaf that it finds; PAGEIN returns the parked tasks of a page
to their queues; KVFREE pushes a frame of the arena; POISONCLR takes a block off the list; a migration marks its frames, fills the new
one, probes its sources and ends when they are quiet, and what was answered RETRY is sent again after 64 tc.  Rests on the model's choices
of log 8, 40, 74 and 106. -/
def Obligations.UpkeepIsDone : Prop :=
  (∀ (s : State), s.scrubs < s.now / 2 ^ 27 → exec .scrubPass s = .next { s.scrub with scrubs := s.now / 2 ^ 27 }) ∧
  (∀ (s : State) (line : Nat), s.scrubLine line = (let z := s.senseLine line line (line + 64)
    let x := z.1.tileAt (sliceTile line)
    if z.2 || x.lostBank (bankOf (sliceOff line)) then z.1
    else { z.1 with bad := z.1.bad.filter fun w => !(line ≤ w && w < line + 64) })) ∧
  (∀ (t : TileNo) (va : BitVec 52) (w0 w1 : Word) (lvl : Nat) (bl : List Nat) (s s1 : State), let g := s.tileAgent t.toNat
    (s.tileAt t.toNat).task.isSome = true → spaceOf va.toNat = .paged → findTlb (s.tileAt t.toNat).tlb g.who.ctx va.toNat = none →
    s.walk g.die (s.partCount g.part) g.who.root va.toNat = (s1, .leaf w0 w1 lvl bl) →
    exec (.translationWalk t va) s = .next (s1.modTile t.toNat fun x =>
      { x with tlb := holdTlb x.tlb ⟨g.who.ctx, va.extractLsb' 16 36, lvl == 1, w0, w1, bl⟩ })) ∧
  (∀ (d : DieNo) (v : Word) (s : State), exec (.cancelreq d v) s = .next (
    if s.ctxValid (v.extractLsb' 48 16) then
      let no := (s.die d.toNat).cancNo + 1
      let op := DieOp.cancel (s.agentOf (v.extractLsb' 48 16) (v.extractLsb' 0 32) 512) (v.extractLsb' 0 32) none d.toNat no none
      (s.modDie d.toNat fun x => { x with
        cctx := v.extractLsb' 48 16, cregion := v.extractLsb' 0 32, cbusy := true, cancNo := no, canccnt := 0 }).pushOp [0, 1, 2, 3] op
    else s)) ∧
  (∀ (d : DieNo) (v : Word) (s : State), exec (.pagein d v) s =
    .next ((s.modDie d.toNat fun x => { x with pagein := (v &&& 0xFFFF000FFFFFFFFF#64) }).pageIn v)) ∧
  (∀ (v : Word) (k : DieNo) (p : Parked) (s z s1 : State),
    let hit := fun (q : Parked) => q.page == v.extractLsb' 0 36 && q.entry.ctx == v.extractLsb' 48 16
    (∀ d, d < 4 → (s.die d).parked.filter hit = if d = k.toNat then [p] else []) →
    s.tiles.foldl (fun s t => s.modTile t fun x => x.sawPage (v.extractLsb' 48 16) (v.extractLsb' 0 36))
      { s with dies := s.dies.map fun (d : Die) => { d with parked := d.parked.filter fun q => !hit q } } = z →
    rcbState (z.agent k.toNat p.entry.ctx) p.entry.blk.region.toNat z = (some 1, s1) →
    let h := s1.holdDie (z.agent k.toNat p.entry.ctx).part p.entry.blk.coord k.toNat
    s.pageIn v = (heapArrive (z.agent k.toNat p.entry.ctx) h { p.entry with enq := (s1.die h).cyc.toNat } s1).2) ∧
  (∀ (d : DieNo) (v : Word) (s : State), let y := s.modDie d.toNat fun x => { x with kvfree := v }
    let x := y.die d.toNat
    exec (.kvfree d v) s = .next (
      if x.inArena v.toNat ∧ x.kvpoolcnt < x.kvpoolcap then (y.homeWrite64 (x.kvpoolbase.toNat + x.kvpoolcnt.toNat * 8) v).modDie d.toNat fun x =>
        { x with kvpoolcnt := x.kvpoolcnt + 1 }
      else y.modDie d.toNat fun x => { x with kvbad := true })) ∧
  (∀ (d : DieNo) (v : Word) (s : State), exec (.poisonclr d v) s = .next (
    let y := s.modDie d.toNat fun x => { x with poisonclr := v }
    if v.toNat ∈ s.poison then { y with poison := s.poison.filter (· != v.toNat), povf := false } else y)) ∧
  (∀ (d : DieNo) (s : State), let x := s.die d.toNat
    let y := s.modDie d.toNat fun x => { x with migStart := true }
    ((∃ m, x.mig = some m ∧ m.newState ≠ 0 ∧ m.newState ≠ 4) → exec (.migcmdStart d) s = .next y) ∧
    ((∀ m, x.mig = some m → m.newState = 0 ∨ m.newState = 4) →
      let old := x.migold.toNat / 0x10000 * 0x10000
      let new := x.nframe.toNat * 0x10000
      let z := (y.modDie d.toNat fun x => { x with mig := some ⟨old, new, x.ndev, x.ngen, 1, 2, false, [], [], none, []⟩ }).setFrame old 1 none
      exec (.migcmdStart d) s = .next (if x.ndev = 0xFFF then z.setFrame new 2 (some x.ngen) else z))) ∧
  (∀ (d : DieNo) (s : State), let y := s.modDie d.toNat fun x => { x with migDone := true }
    ((∀ m, (s.die d.toNat).mig = some m → m.newState ≠ 3 ∨ m.probes.isSome = true) → exec (.migcmdDone d) s = .next y) ∧
    (∀ m, (s.die d.toNat).mig = some m → m.newState = 3 → m.probes = none → m.routes = [] →
      exec (.migcmdDone d) s = .next (y.modMig d.toNat fun m => { m with probes := some (m.sources.filter (· < 512)) }))) ∧
  (∀ (d : DieNo) (m : Migration) (s : State), (s.die d.toNat).mig = some m → m.newState = 2 →
    (∀ k n, k < d.toNat → (s.die k).mig = some n → n.newState ≠ 2) →
    (m.ndev = 0xFFF → exec .migrationFillDone s = .next (s.fillHere d.toNat m)) ∧
    (m.ndev ≠ 0xFFF → m.filled = false → exec .migrationFillDone s = .next (s.fillAway d.toNat m)) ∧
    (m.ndev ≠ 0xFFF → m.filled = true → s.host.hostReqs = [] → exec .migrationFillDone s = .next (s.modMig d.toNat fun m => { m with newState := 3 }))) ∧
  (∀ (m : Memory) (old new a : Nat), Memory.wf m = true → Memory.byte (copyFrame m old new) a =
    if new ≤ a ∧ a < new + 0x10000 then Memory.byte m (a - new + old) else Memory.byte m a) ∧
  (∀ (s : State), s.dueAgain = [] → (∀ d, d < 4 → (s.die d).mig = none) → exec .migrationRetry s = .next { s with
    wb := s.wb.map fun w => if w.notBefore ≤ s.now then { w with notBefore := 0 } else w
    far := s.far.map fun f => if f.notBefore ≤ s.now then { f with notBefore := 0 } else f }) ∧
  (∀ (d : DieNo) (m : Migration) (l : List Nat) (s : State), (s.die d.toNat).mig = some m → m.probes = some l → m.newState = 3 → m.oldState = 1 →
    (∀ t ∈ l, t < 512 ∧ s.tileQuiet t m.old = true) →
    s.migQuiet d.toNat = (let z := (s.modMig d.toNat fun m => { m with probes := some [] }).setFrame m.old 4 none
      (if m.ndev = 0xFFF then z.setFrame m.new 0 none else z).modMig d.toNat fun m => { m with oldState := 4, newState := 0 }))

/-- Only the owner's stores reach the control windows; a register without a behaviour of its own holds what it is given, OWNER is claimed
by compare-and-swap, a slot is written whole when its image passes the checks, the partition map keeps bound partitions valid, a port with
PEN cleared goes down, the tenant records are written at their homes, and a class that was disabled takes that when it is empty.  Rests on
the model's choices of log 47, 49, 50, 93 and 105. -/
def Obligations.RegistersAreWritten : Prop :=
  (∀ (who : Writer) (e v : Word) (s : State),
    ((s.byOf who).kind = 0 → exec (.owner who e v) s = .next s) ∧
    ((s.byOf who).kind ≠ 0 → exec (.owner who e v) s = .next (answered (.value s.host.owner)
      (if s.host.owner = e then { s with host := { s.host with owner := v } } else s)))) ∧
  (∀ (addr : BitVec 52) (v : Word) (who : Writer) (off : Nat) (s : State), spaceOf addr.toNat = .window off → off % 8 = 0 → off < 0x50000000 →
    (off = 0x40000030 → exec (.registerWrite addr v who) s = .next s.refuse) ∧
    (off = 0x40000038 → who = .mc → exec (.registerWrite addr v who) s = .next (s.ownerBreak v)) ∧
    (off ≠ 0x40000030 → (off = 0x40000038 → who ≠ .mc) → Owns s who → exec (.registerWrite addr v who) s = .next (s.windowSet off v)) ∧
    (off ≠ 0x40000030 → (off = 0x40000038 → who ≠ .mc) → ¬ Owns s who → exec (.registerWrite addr v who) s = .next s.refuse)) ∧
  (∀ (s : State), s.refuse = { s with host := { s.host with refused := if s.host.refused = BitVec.allOnes _ then s.host.refused else s.host.refused + 1 } }) ∧
  (∀ e ∈ plainRegs, ∀ (v : Word) (s : State), (s.windowSet e.1 v).windowRead e.1 = v &&& e.2) ∧
  (∀ (slot : BitVec 10) (off : BitVec 5) (v : Word) (who : Writer) (s : State), off.toNat < 24 → Owns s who →
    exec (.slotStageWrite slot off v who) s = .next { s with host := { s.host with
      staging := setSlot s.host.staging slot.toNat (slotWith (slotBytes s.host.staging slot.toNat) (off.toNat / 8 * 8) v) } }) ∧
  (∀ (slot : BitVec 10) (v : Word) (who : Writer) (s : State), Owns s who →
    let img := slotWith (slotBytes s.host.staging slot.toNat) 24 v
    exec (.slotCommitWrite slot v who) s = .next { s with host := { s.host with
      staging := setSlot s.host.staging slot.toNat img
      slots := if imageOk img then setSlot s.host.slots slot.toNat img else s.host.slots
      badimg := s.host.badimg || !imageOk img } }) ∧
  (∀ (l : Assoc (List Byte)) (n k : Nat) (img : List Byte), Assoc.wf [] l = true → img.length = 32 →
    slotBytes (setSlot l n img) k = if k = n then img else slotBytes l k) ∧
  (∀ (i : TileNo) (v : Word) (who : Writer) (s : State), Owns s who →
    let k := i.toNat / 2 * 2
    let y := { s with host := { s.host with pmap := Assoc.set 0 (k + 1) (v.extractLsb' 47 17 ++ (0 : BitVec 15)) (Assoc.set 0 k (v.extractLsb' 15 17 ++ (0 : BitVec 15)) s.host.pmap) } }
    exec (.pmapWrite i v who) s = .next (if s.validCtxs.all fun c => y.partValid (s.ctxPart c) then y
      else { s with host := { s.host with badpart := true } })) ∧
  (∀ (p : BitVec 5) (v : Word) (who : Writer) (s : State), Owns s who →
    let x := vget s.host.ports p.toNat
    let y := { s with host := { s.host with ports := vset s.host.ports p.toNat { x with pen := v.getLsbD 2, downev := x.downev && !v.getLsbD 0 } } }
    exec (.portEnableWrite p v who) s = .next (if v.getLsbD 2 then y else y.portDown p.toNat)) ∧
  (∀ (slot : BitVec 10) (off : BitVec 5) (i : TileNo) (p : BitVec 5) (v : Word) (who : Writer) (s : State), ¬ Owns s who →
    (off.toNat < 24 → exec (.slotStageWrite slot off v who) s = .next s.refuse) ∧ exec (.slotCommitWrite slot v who) s = .next s.refuse ∧
    exec (.pmapWrite i v who) s = .next s.refuse ∧ exec (.portEnableWrite p v who) s = .next s.refuse) ∧
  (∀ (addr : BitVec 44) (v : Word) (who : Writer) (s : State), let a := addr.toNat / 8 * 8
    let b := s.host.tenbase.toNat
    b ≠ 0 → b ≤ a → a < b + 0x800000 → isDram a = true →
    exec (.tenantRecordWrite addr v who) s = .next (s.storeNow (s.byOf who) a (toBytes 8 v.toNat)) ∧
    (b % 8 = 0 → ¬ Owns s who → s.storeNow (s.byOf who) a (toBytes 8 v.toNat) = s.settle
      (if (List.range 8).any fun i => s.measLocked (a + i) then { s.refuse with host := { s.refuse.host with measlock := true } } else s.refuse)
      (cellsAt a (toBytes 8 v.toNat)))) ∧
  (∀ (d : DieNo) (k : BitVec 5) (v : Word) (s : State), let x := s.die d.toNat
    let c := vget x.ch (k.toNat - 1)
    1 ≤ k.toNat → k.toNat ≤ 16 → c.pending = some v → c.collecting = [] → c.closing = [] → c.backlog = [] → c.closed = none →
    (∀ e ∈ x.chIn, e.blk.bclass.toNat ≠ k.toNat) →
    exec (.chclsWrite d k) s = .next (s.modDie d.toNat fun x => { x with ch := vset x.ch (k.toNat - 1) (c.setWord1 v) }))

/-- A host core's access reads or writes memory through the map, zero in its gaps, one whole register in a window, and an abort in a hole;
a PCIe function reaches the pages of its context; any other agent is no host core.  Rests on the model's choices of log 30. -/
def Obligations.HostCoresReachTheMap : Prop :=
  (∀ (who : Writer) (a : BitVec 48) (z : Size) (s : State), hostSide who = true →
    (mapRefuses a.toNat z.bytes = true → exec (.hostAccess (.load who a z)) s = .next (answered .abort s)) ∧
    (∀ off, mapRefuses a.toNat z.bytes = false → mapSpot a.toNat = .window off →
      exec (.hostAccess (.load who a z)) s = .next (answered (.value (s.windowRead off)) s)) ∧
    (mapRefuses a.toNat z.bytes = false → (∀ off, mapSpot a.toNat ≠ .window off) → Sound s →
      ∃ v : Word, exec (.hostAccess (.load who a z)) s = .next (answered (.value v) s) ∧ v.toNat < 256 ^ z.bytes ∧
        ∀ i, i < z.bytes → v.extractLsb' (8 * i) 8 = mapByte s (a.toNat + i))) ∧
  (∀ (who : Writer) (a : BitVec 48) (z : Size) (v : Word) (s : State), hostSide who = true →
    (mapRefuses a.toNat z.bytes = true → exec (.hostAccess (.store who a z v)) s = .next (answered .abort s)) ∧
    (∀ off, mapRefuses a.toNat z.bytes = false → mapSpot a.toNat = .window off →
      exec (.hostAccess (.store who a z v)) s = .next (answered .done (s.windowWrite (s.byOf who) off v))) ∧
    (mapRefuses a.toNat z.bytes = false → (∀ off, mapSpot a.toNat ≠ .window off) →
      exec (.hostAccess (.store who a z v)) s =
        .next (answered .done (s.cellsNow (s.byOf who) ((byteCells a.toNat z.bytes v).filter fun c => mapSpot c.1 == .memory))))) ∧
  (∀ (who : Writer) (a : BitVec 48) (op : AOp) (dbl : Bool) (v e : Word) (s : State), hostSide who = true →
    let n := if dbl then 8 else 4
    (a.toNat % n ≠ 0 ∨ mapRefuses a.toNat n = true → exec (.hostAccess (.amo who a op dbl v)) s = .next (answered .abort s) ∧
      exec (.hostAccess (.cas who a dbl e v)) s = .next (answered .abort s)) ∧
    (a.toNat % n = 0 → mapRefuses a.toNat n = false → mapSpot a.toNat = .memory → Sound s → ∀ r : Rmw, r = .amo op v ∨ r = .cas e v →
      exec (.hostAccess (match r with | .amo op v => .amo who a op dbl v | .cas e v => .cas who a dbl e v)) s =
        .next (answered (.value (BitVec.ofNat 64 (s.home a.toNat n)))
          ((s.settle (s.rmw (s.byOf who) r a.toNat n).1 (cellsAt a.toNat (toBytes n (r.new n (s.home a.toNat n)))))))) ∧
    (mapSpot a.toNat = .window 0x40000030 → a.toNat % 8 = 0 →
      exec (.hostAccess (.cas who a true e v)) s =
        .next (answered (.value s.host.owner) (if s.host.owner = e then { s with host := { s.host with owner := v } } else s)) ∧
      exec (.hostAccess (.amo who a op true v)) s =
        .next (answered (.value s.host.owner) { s with host := { s.host with owner := BitVec.ofNat 64 (aopNew op 8 s.host.owner.toNat v.toNat) } }))) ∧
  (∀ (who : Writer) (a : BitVec 48) (z : Size) (op : AOp) (dbl : Bool) (e v : Word) (s : State), hostSide who = false →
    exec (.hostAccess (.load who a z)) s = .next (answered .unsupported s) ∧ exec (.hostAccess (.store who a z v)) s = .next (answered .unsupported s) ∧
    exec (.hostAccess (.amo who a op dbl v)) s = .next (answered .unsupported s) ∧ exec (.hostAccess (.cas who a dbl e v)) s = .next (answered .unsupported s)) ∧
  (∀ (vf : BitVec 8) (off : BitVec 26) (z : Size) (s : State), s.vfWindow vf off = none →
    exec (.hostAccess (.vfLoad vf off z)) s = .next (answered .unsupported s)) ∧
  (∀ (vf : BitVec 8) (off : BitVec 26) (z : Size) (v : Word) (g : Agent) (va : Nat) (s s1 : State) (l : List (Nat × Nat × Nat × Option Leaf)),
    s.vfWindow vf off = some (g, va) →
    (s.vfPlaces g .rd va (granules va z.bytes) = (s1, .ok l) → Sound s1 →
      exec (.hostAccess (.vfLoad vf off z)) s = .next (answered (.value (BitVec.ofNat 64 (ofBytes (l.flatMap fun x => toBytes x.2.1 (s1.home x.2.2.1 x.2.1))))) s1)) ∧
    (s.vfPlaces g .wr va (granules va z.bytes) = (s1, .ok l) →
      exec (.hostAccess (.vfStore vf off z v)) s = .next (answered .done (s1.cellsNow ⟨0, 0⟩
        (l.flatMap fun x => cellsAt x.2.2.1 (((toBytes z.bytes v.toNat).drop x.1).take x.2.1))))))

/-- A good link frame adds its eight flits to those received, and the packets that are then whole come in while EN is 1, the hop byte of
the sender's port now naming the port of entry; a zero flit is idle, and the 16th bad frame in a row takes the link down.  A link that
goes down fails the packets queued for it, a router passes the first packet whose next hop passes the checks, with PTR one more, and the
last one compares DSTDEV.  Rests on the model's choices of log 17 and 109. -/
def Obligations.LinksAndRoutersCarryPackets : Prop :=
  (∀ (p : BitVec 5) (l : List Byte) (ok : Bool) (s : State), let k := vget s.host.ports p.toNat
    (k.pen = false ∨ k.up = false ∨ l.length ≠ 256 → exec (.linkFrameReceive p l ok) s = .next s) ∧
    (k.pen = true → k.up = true → l.length = 256 →
      let y : State := { s with host := { s.host with ports := vset s.host.ports p.toNat { k with rx := (framesOf 64 (k.rx ++ l)).2, tries := 0 } } }
      (ok = true → exec (.linkFrameReceive p l ok) s =
        .next (if s.host.en then (framesOf 64 (k.rx ++ l)).1.foldl (fun s q => s.comeIn p.toNat q) y else y)) ∧
      (ok = false → k.tries < 15 → exec (.linkFrameReceive p l ok) s =
        .next { s with host := { s.host with ports := vset s.host.ports p.toNat { k with tries := k.tries + 1 } } }) ∧
      (ok = false → 15 ≤ k.tries → exec (.linkFrameReceive p l ok) s = exec (.linkDown p) s))) ∧
  (∀ (n : Nat) (h b r : List Byte), h.length = 32 →
    ((∀ x ∈ h, x = 0) → framesOf (n + 1) (h ++ r) = framesOf n r) ∧
    ((∃ x ∈ h, x ≠ 0) → b.length = 32 * (packetOf h []).plen → framesOf (n + 1) (h ++ b ++ r) = (packetOf h b :: (framesOf n r).1, (framesOf n r).2)) ∧
    ((∃ x ∈ h, x ≠ 0) → b.length < 32 * (packetOf h []).plen → framesOf (n + 1) (h ++ b) = ([], h ++ b))) ∧
  (∀ (p : Packet), p.hop.length = 24 → p.kind < 64 → p.hops < 32 → p.ptr < 32 → p.plen < 16 → packetOf p.header p.body = p ∧ p.header.length = 32) ∧
  (∀ (port : Nat) (p : Packet) (s : State), port < 32 → 0 < p.ptr → p.ptr ≤ p.hop.length →
    let q := { p with hop := p.hop.set (p.ptr - 1) (BitVec.ofNat 8 (port * 4 + hopLane (p.hop.getD (p.ptr - 1) 0))) }
    s.comeIn port p = (if p.ptr = p.hops then { s with host := { s.host with arriving := s.host.arriving ++ [q] } }
      else { s with host := { s.host with outbound := s.host.outbound ++ [q] } })) ∧
  (∀ (p : BitVec 5) (s : State), let k := vget s.host.ports p.toNat
    (k.up = false → exec (.linkDown p) s = .next s) ∧
    (k.up = true → exec (.linkDown p) s = .next ((s.host.outbound.filter fun q => hopPort (q.hop.getD q.ptr 0) == p.toNat).foldl
      (fun s q => s.failPacket q causeRouteDown) { s with host := { s.host with
        ports := vset s.host.ports p.toNat { k with up := false, downev := true, rx := [], tries := 0 }
        outbound := s.host.outbound.filter fun q => !(hopPort (q.hop.getD q.ptr 0) == p.toNat) } }))) ∧
  (∀ (p : BitVec 5) (s : State), (vget s.host.ports p.toNat).pen = true →
    exec (.linkUp p) s = .next { s with host := { s.host with ports := vset s.host.ports p.toNat { vget s.host.ports p.toNat with up := true } } }) ∧
  (∀ (p : Packet) (r : List Packet) (s : State), s.needs = [] → s.posts = [] → s.host.outbound = p :: r →
    (s.hopCheck p = none → exec .packetForward s = .next { s with host := { s.host with outbound := r, sent := s.host.sent ++ [(BitVec.ofNat 5 (hopPort (p.hop.getD p.ptr 0)), { p with ptr := p.ptr + 1 })] } }) ∧
    (∀ c, s.hopCheck p = some c → exec .packetForward s = .next (State.failPacket { s with host := { s.host with outbound := r } } p c))) ∧
  (∀ (p : Packet) (s : State), let b := p.hop.getD p.ptr 0
    (s.host.en = false → s.hopCheck p = some causeRouteDown) ∧
    (s.hopCheck p = none ↔ s.host.en = true ∧ 1 ≤ p.kind ∧ p.kind ≤ 10 ∧ 1 ≤ p.hops ∧ p.hops ≤ 24 ∧ p.ptr < p.hops ∧ p.plen ≤ 8 ∧ p.res = 0 ∧
      (∃ x, s.host.ports[hopPort b]? = some x ∧ x.pen = true ∧ x.up = true) ∧ (p.ptr ≠ 0 → hopLane (p.hop.getD (p.ptr - 1) 0) ≤ hopLane b))) ∧
  (∀ (p : Packet) (r : List Packet) (s : State), s.host.arriving = p :: r →
    (p.dstdev = s.host.devid → 1 ≤ p.kind → p.kind ≤ 10 →
      exec .packetEject s = .next { s with host := { s.host with arriving := r, inbound := s.host.inbound ++ [p] } }) ∧
    (p.dstdev ≠ s.host.devid ∨ p.kind = 0 ∨ 10 < p.kind →
      exec .packetEject s = .next (State.failPacket { s with host := { s.host with arriving := r } } p causeRouteBad))) ∧
  (∀ (p : Packet) (c : Byte) (s : State),
    (p.mc = true → s.failPacket p c = { s with host := { s.host with errlost := satInc s.host.errlost } }) ∧
    (p.mc = false → p.ptr = 0 → ∀ r, s.findReq p.srcag.toNat (seqOf p.body) = some r → s.failPacket p c = s.failRequest p.srcag.toNat r c) ∧
    (p.mc = false → 0 < p.ptr → ∀ q : Packet, q = ⟨reverseHops p.hop p.ptr, kRouteerr, p.ptr, 0, true, 1, s.host.devid, p.srcdev, 0x200, 0,
        [statusOf c, BitVec.ofNat 8 p.ptr, 0, 0, 0, 0, 0, 0] ++ p.header.drop 24 ++ (List.range 16).map fun i => p.body.getD i 0⟩ →
      p.hop.length = 24 → s.hopCheck q = none → s.failPacket p c = { s with host := { s.host with outbound := s.host.outbound ++ [q] } }) ∧
    ∀ j, j < p.ptr → (reverseHops p.hop p.ptr).getD j 0 =
      BitVec.ofNat 8 (hopPort (p.hop.getD (p.ptr - 1 - j) 0) * 4 + (3 - hopLane (p.hop.getD (p.ptr - 1 - j) 0))))

/-- A request that comes in is served at its home and answered over the reverse route: a LOAD reads, a STORE or COPYDATA writes, AMO and
CAS apply their operation, FAR and WALK act on memory or nodes.  An answer reaches its request once; a ROUTEERR or RTIMEOUT fails it. 
Rests on the model's choices of log 17, 24 and 41. -/
def Obligations.RequestsAreServedAndAnswered : Prop :=
  (∀ (p : Packet) (e : Instr) (s s1 s2 : State) (st : Byte) (w : Word) (data : List Byte), fabricEvent p = some e →
    (∀ f : Packet → Bool, (∀ q, f q = true ↔ fabricEvent q = some e) → s.takePacket f = some (p, s1)) →
    let c := flitOf p.body
    let x := s1.noteSource p c
    x.serve ⟨remoteSrc p.srcdev p.srcag, x.peerBy c p.srcdev⟩ p.srcdev p.kind c = .reply st w data s2 → e ≠ .fabricWalk →
    exec e s = .next (s2.respond p kReply (replyBody st c.seq p.srcag.toNat w data))) ∧
  (∀ (p : Packet) (s s1 s2 : State) (st : Byte) (w : Word) (data : List Byte), let c := flitOf p.body
    (begun s).takePacket (fun q => q.kind == kWalk) = some (p, s1) →
    let x := s1.noteSource p c
    x.serve ⟨remoteSrc p.srcdev p.srcag, x.peerBy c p.srcdev⟩ p.srcdev p.kind c = .reply st w data s2 → (Alone s ∨ Unasked s2) →
    exec .fabricWalk s = .next (tried s (s2.respond p kReply (replyBody st c.seq p.srcag.toNat w data)))) ∧
  (∀ (c : Flit) (d : BitVec 12) (s : State), s.peerBy c d = if (s.ctxWord c.rctx 1).getLsbD 30 then ⟨3, d⟩ else ⟨0, 0⟩) ∧
  (∀ (f : From) (d : BitVec 12) (k : Nat) (c : Flit) (s : State), c.opcOk k = false → s.serve f d k c = .reply 0x11 0 [] s) ∧
  (∀ (p : Packet) (r : List Packet) (f : Packet → Bool) (s : State), s.host.inbound = p :: r → f p = true →
    s.takePacket f = some (p, { s with host := { s.host with inbound := r } })) ∧
  (∀ (p : Packet) (kind : Nat) (body : List Byte) (s : State),
    let q : Packet := ⟨reverseHops p.hop p.ptr, kind, p.ptr, 0, true, body.length / 32, s.host.devid, p.srcdev, 0x200, 0, body⟩
    (s.hopCheck q = none → s.respond p kind body = { s with host := { s.host with outbound := s.host.outbound ++ [q] } }) ∧
    (s.hopCheck q ≠ none → s.respond p kind body = { s with host := { s.host with errlost := satInc s.host.errlost } })) ∧
  (∀ (f : From) (d : BitVec 12) (c : Flit) (n : Nat) (s : State), Sound s → c.phys = true → (s.ctxWord c.rctx 1).getLsbD 29 = true → 1 ≤ n → n ≤ 224 →
    c.addr % 0x10000 + n ≤ 0x10000 → isDram c.addr = true → isDram (c.addr + n - 1) = true →
    (c.opc = 4 ∧ fld c.oper0 7 0 = n ∨ c.opc < 4 ∧ n = 2 ^ c.opc → s.homeAnswer c.addr c.gen false = .apply →
      s.serve f d kLoad c = .reply 0 0 (toBytes n (s.home c.addr n)) s) ∧
    (∀ pa s1, c.opc = 4 ∧ fld c.oper0 7 0 = n ∨ c.opc < 4 ∧ n = 2 ^ c.opc → s.homed f c c.addr none = .at_ pa s1 →
      s.serve f d kStore c = .reply 0 0 [] (s1.storeNow f.by_ pa ((List.range n).map fun i => c.data.getD i 0))) ∧
    (∀ pa s1, c.opc = 0 → fld c.oper0 7 0 = n → s.homed f c c.addr none = .at_ pa s1 →
      s.serve f d kCopydata c = .reply 0 0 [] (s1.storeNow f.by_ pa ((List.range n).map fun i => c.data.getD i 0))) ∧
    (∀ op pa s1, n = (if c.opc / 16 % 2 = 1 then 8 else 4) → c.opc < 32 → aopOf (c.opc % 16) = some op → c.addr % n = 0 → s.undrained c.addr n = false →
      s.homed f c c.addr none = .at_ pa s1 → Sound s1 →
      s.serve f d kAmo c = .reply 0 0 (toBytes n (s1.home pa n))
        (s1.settle (s1.rmw f.by_ (.amo op c.oper0) pa n).1 (cellsAt pa (toBytes n (aopNew op n (s1.home pa n) (c.oper0.toNat % 2 ^ (8 * n)))))) ∧
      (c.opc % 16 ≠ 0 → s.serve f d kFar c = .reply 0 0 []
        (s1.settle (s1.rmw f.by_ (.amo op c.oper0) pa n).1 (cellsAt pa (toBytes n (aopNew op n (s1.home pa n) (c.oper0.toNat % 2 ^ (8 * n)))))))) ∧
    (∀ pa s1, n = (if c.opc = 16 then 8 else 4) → c.opc = 0 ∨ c.opc = 16 → c.addr % n = 0 → s.undrained c.addr n = false →
      s.homed f c c.addr none = .at_ pa s1 → Sound s1 →
      s.serve f d kCas c = .reply 0 0 (toBytes n (s1.home pa n))
        (s1.settle (s1.rmw f.by_ (.cas c.oper0 c.oper1) pa n).1
          (cellsAt pa (toBytes n ((Rmw.cas c.oper0 c.oper1).new n (s1.home pa n))))))) ∧
  (∀ (f : From) (d : BitVec 12) (c : Flit) (k : Nat) (s s1 : State), s.requestPlace c true c.addr 1 .wr = (s1, .ok (.node k)) →
    (∀ fd, c.opc / 32 = 2 → nfieldOf (c.opc % 16) = some fd → c.opc / 16 % 2 ≠ 1 → c.phys = false → s1.ownsNodes c.rctx k 1 = true →
      s.serve f d kStore c = .reply 0 0 [] (s1.cellsNow f.by_ (nstCells k fd c.oper0))) ∧
    (c.opc = 32 → s1.undrained (nodeBase k) 32 = false →
      s.serve f d kFar c = .reply 0 0 [] (s1.nfreeAt ⟨.nfree, s1.agentOf c.rctx 0 512, k, none, 0, none, 0, c.seq, 0, false⟩)) ∧
    (∀ w, c.walk = some w → s1.undrained (nodeBase k) 32 = false →
      let full := decide (s1.host.fwdcap.toNat ≤ (s1.far.filter fun g => g.tile.isNone && 512 ≤ g.who.tile).length)
      let lvl := fld c.oper1 53 48
      (full = true → s.serve f d kWalk c = .reply 0 0 [] (s1.remBad k)) ∧
      (full = false → s.serve f d kWalk c = .reply 0 0 [] (s1.walkAt s1.far.length ⟨w, s1.agentOf c.rctx
        (if lvl = 0 then ((s1.nodeTag k).map (·.region)).getD 0 else c.oper1.extractLsb' 0 32) 512, k, none, lvl, none, nodeRef k, c.seq, 0, false⟩)))) ∧
  (∀ (f : From) (d : BitVec 12) (c : Flit) (s : State), c.opc = 0 → s.probeQuiet d (fld c.oper0 9 0) c.addr = true → s.serve f d kProbe c = .reply 0 0 [] s) ∧
  (∀ (p : Packet) (r : RReq) (s s1 : State), s.takePacket (fun p => p.kind == kReply) = some (p, s1) →
    let w := fun (k : Nat) => BitVec.ofNat 64 (ofBytes ((p.body.drop (8 * k)).take 8))
    let ag := fld (w 2) 9 0
    s1.findReq ag (seqOf p.body) = some r →
    exec .fabricReply s = .next (match fld (w 0) 7 0 with
      | 0 => s1.fulfil ag r (p.body.drop 32)
      | 1 => s1.staleReq ag r
      | 2 => s1.redirectAll ag r (w 3)
      | 3 => s1.holdReq ag r.id
      | n => s1.failRequest ag r (causeOf (BitVec.ofNat 8 n)))) ∧
  (∀ (p : Packet) (s s1 : State), s.takePacket (fun p => p.kind == kReply) = some (p, s1) →
    s1.findReq (fld (BitVec.ofNat 64 (ofBytes ((p.body.drop 16).take 8))) 9 0) (seqOf p.body) = none → exec .fabricReply s = .next s1) ∧
  (∀ (p : Packet) (r : RReq) (s s1 : State), s.takePacket (fun p => p.kind == kRouteerr) = some (p, s1) →
    let ag := fld (BitVec.ofNat 64 (ofBytes ((p.body.drop 8).take 8))) 18 9
    s1.findReq ag (seqOf (p.body.drop 16)) = some r → exec .fabricRouteerr s = .next (s1.failRequest ag r (causeOf (p.body.getD 0 0)))) ∧
  (∀ (ag : Nat) (r : RReq) (l : List (Nat × RReq)) (s : State), s.overdue = (ag, r) :: l →
    exec .requestTimeout s = .next (State.failRequest { s with host := { s.host with tmo := satInc s.host.tmo } } ag r causeRouteDown)) ∧
  (∀ (s : State) (ag : Nat) (r : RReq), s.overdue = [(ag, r)] → s.host.rtimeout ≠ 0 ∧ s.host.rtimeout.toNat ≤ s.agentCyc ag - r.sent)

/-- The Glaze engine moves the request at the head of its tenant that may move; a peer answers with its counter and tag, or raises them to
a greater counter; an answer counts once, in its stage and within QTIMEOUT, after which the answers that are there decide.  Power-on reset
leaves the machine of State.reset but for what flash and storage keep, and after a failed step says which.  Rests on the model's choices
of log 9, 11, 31 and 85. -/
def Obligations.SealsPeersAndResetAreServed : Prop :=
  (∀ (z : Glaze) (r : List Glaze) (s s1 : State), (s.glazeHeads.filter fun z => !z.uns && z.ready) = z :: r →
    (sealMove z (begun s)).2 = s1 → (Alone s ∨ Unasked s1) → tried s s1 ≠ s → exec .sealOperation s = .next (tried s s1)) ∧
  (∀ (z : Glaze) (r : List Glaze) (s s1 : State), (s.glazeHeads.filter fun z => z.uns && z.ready) = z :: r →
    (unsealMove z (begun s)).2 = s1 → (Alone s ∨ Unasked s1) → tried s s1 ≠ s → exec .unsealOperation s = .next (tried s s1)) ∧
  (∀ (tenant c nb : Word) (ok : Bool) (s : State), let p := Assoc.get (0, 0) tenant.toNat s.host.flash
    exec (.peerQuery (.serve tenant c nb ok)) s =
      .next { s with host := { s.host with peerAnswer := some (p.1, p.2, ok && p.1 == c && p.2 == nb) } } ∧
    exec (.peerCounterRaise (.serve tenant c nb ok)) s = .next { s with host :=
      if p.1 < c then { s.host with flash := Assoc.set (0, 0) tenant.toNat (c, nb) s.host.flash, peerAnswer := some (c, nb, true) }
      else { s.host with peerAnswer := some (p.1, p.2, false) } }) ∧
  (∀ (id : Nat) (peer : BitVec 3) (c nb : Word) (key : Bool) (z : Glaze) (s : State), s.host.glaze = [z] → z.id = id → peer.toNat < 5 →
    (∀ a ∈ z.answers, a.1 ≠ peer) → s.qpeer z.ctx peer = true → s.host.cyc.toNat ≤ z.since + s.host.qtimeout.toNat →
    let y := { s with host := { s.host with glaze := [{ z with answers := z.answers ++ [(peer, c, nb, key)] }] } }
    (z.stage = .asking → exec (.peerQuery (.answer id peer c nb key)) s = .next y) ∧
    (z.stage = .raising → exec (.peerCounterRaise (.answer id peer c nb key)) s = .next y)) ∧
  (∀ (s : State), ∃ y, exec .quorumTimeout s = .next { s with host := { s.host with glaze := y } } ∧ y.length = s.host.glaze.length ∧
    ∀ k (h : k < y.length) z, s.host.glaze[k]? = some z → y[k] =
      if s.host.cyc.toNat < z.since + s.host.qtimeout.toNat then z
      else if z.stage = .asking then { z with stage := .asked } else if z.stage = .raising then { z with stage := .raised } else z) ∧
  (∀ (f : Option (BitVec 3)) (rp : Bool) (s : State), exec (.powerOnReset f [] rp) s = .next { State.reset with
    inputs := s.inputs
    free := s.free
    host := { State.reset.host with
        flash := s.host.flash
        ownFlash := s.host.ownFlash
        images := s.host.images
        storage := s.host.storage
        keysDerived := (match f with | some k => decide (1 < k.toNat) | none => true)
        rootPort := (match f with | some k => if 3 < k.toNat then rp else State.reset.host.rootPort | none => rp)
        failedStep := f } }) ∧
  (∀ (t : TileNo) (b : BitVec 3) (rp : Bool) (s s1 : State), exec (.powerOnReset none [] rp) s = .next s1 →
    exec (.powerOnReset none [(t, b)] rp) s =
      .next ((s1.modTile t.toNat fun x => { x with degraded := true, fbank := b }).errRec (t.toNat / 128) 0x50 t.toNat
        (BitVec.ofNat 64 (0x40000000000 + t.toNat * 0x400000))))

/-- What fetch finds at the tile's place is the word of its program there, decoded with the word after it; the tile in turn takes it into
its queue at the end, and a step in which a queued word is ready is the execution of that word's instruction, with the word gone from the
queue and delivery in the cycle over.  Rests on the model's choices of log 6 and 38. -/
def Obligations.StepRunsTheDecodedWord : Prop :=
  (∀ (x : Tile) (i : Instr), x.fetch.pc < x.words → decode (x.progWord x.fetch.pc)
      (if x.fetch.pc + 1 < x.words then some (x.progWord (x.fetch.pc + 1)) else none) = .ok i →
    (x.fetch.pc = 0 ∨ isCopymPair (x.progWord (x.fetch.pc - 1)) (x.progWord x.fetch.pc) = false) →
    x.fetched = .ok (x.progWord x.fetch.pc, i)) ∧
  (∀ (s : State) (t : Nat) (rest : List Nat) (w : Word) (i : Instr), let x := s.focus t
    s.dueInput = none → s.host.failedStep = none → s.turn = some (t :: rest) → x.dutyHeld x.tileId = false → x.tile.fetchOpen x.now = true →
    x.tile.fetched = .ok (w, i) → x.tile.closeBefore i = none → x.tile.thirdChunk = false → x.tile.queue = [] →
    ∃ q l, x.deliverTurn.tile.queue = q :: l ∧ q.word = i ∧ q.slot.raw = w ∧ q.slot.idx = x.tile.fetch.pc ∧ q.slot.seq = x.tile.nseq ∧
      q.slot.caps = x.tile.regs.caps ∧ q.at_ = x.now ∧
      (x.deliverTurn.ready = some q → ∀ y, exec i (issuing q x.deliverTurn) = .next y → step s = .next (afterIssue q x.deliverTurn y))) ∧
  (∀ (s : State) (t : Nat) (rest : List Nat) (q : QEntry) (y : State),
    s.dueInput = none → s.host.failedStep = none → s.turn = some (t :: rest) → (s.focus t).deliverTurn.ready = some q →
    exec q.word (issuing q (s.focus t).deliverTurn) = .next y → step s = .next (afterIssue q (s.focus t).deliverTurn y)) ∧
  (∀ (s : State) (c : Nat) (i : Instr) (r : List (Nat × Instr)) (y : State), s.inputs = (c, i) :: r → c ≤ s.now →
    (s.host.failedStep = none ∨ ∃ f b rp, i = .powerOnReset f b rp) → exec i { s with inputs := r } = .next y →
    y.needs.length ≤ s.needs.length → (y.stalled = true → s.stalled = true) → step s = .next y) ∧
  (∀ (s : State) (c : Nat) (i : Instr) (r : List (Nat × Instr)), s.inputs = (c, i) :: r → c ≤ s.now → s.host.failedStep.isSome = true →
    (∀ f b rp, i ≠ .powerOnReset f b rp) → step s = .next { s with inputs := r })

/-- The decoder gives back every well-formed instruction from its word, with the word after it for a COPYM. -/
def Obligations.DecodeOfEncodeIsTheInstruction : Prop :=
  ∀ (i : Instr) (w : Word) (next : Option Word), i.wf = true → encode i = some w → (∀ n, i.encNext = some n → next = some n) →
    decode w next = .ok i

/-- Every word that decodes is the word of the instruction that it decodes to, and that instruction is well-formed: no word has two meanings, and
no bit of it is ignored. -/
def Obligations.DecodedWordIsTheWordOfItsInstruction : Prop :=
  ∀ (w : Word) (next : Option Word) (i : Instr), decode w next = .ok i →
    i.wf = true ∧ i.isWord = true ∧ encode i = some w ∧ ∀ n, i.encNext = some n → next = some n

/-- Words that spec/ spells out decode to the instruction they stand for, and a COPYM with its follow-on to both. -/
def Obligations.SpelledWordsDecode : Prop :=
  (∀ e ∈ spelled, (decode e.1 none).toOption = some e.2) ∧
  (decode 0x000E20614A2A0000 (some 0x000F002801828000)).toOption =
    some (.copym Hdr.plain ⟨12, 10, 20, 21, 0, 0, .plain, false⟩ ⟨false, .pad 10, .vreg 0, 6, .e4m3e4m3, true, false⟩)

/-- Every step keeps memory in its canonical form: addresses rise strictly, and no byte is listed that reads as one that is not listed. 
Rests on the model's choices of log 1. -/
def Obligations.StepKeepsMemoryCanonical : Prop :=
  (∀ (i : Instr) (s t : State), Memory.wf s.mem = true → exec i s = .next t → Memory.wf t.mem = true) ∧
  ∀ (s t : State), Memory.wf s.mem = true → step s = .next t → Memory.wf t.mem = true

/-- Reset as R298 leaves it: counters at zero, EN = 0, OWNER = 0, no slot, partition, context or task, the registers of R297 at their
values, and memory in its canonical form.  Rests on the model's choices of log 1, 2 and 4. -/
def Obligations.ResetIsAsTheSpecSays : Prop :=
  let s := State.reset
  Memory.wf s.mem = true ∧ s.now = 0 ∧ (∀ d, d < 4 → (s.die d).cyc = 0) ∧ s.host.cyc = 0 ∧ s.host.en = false ∧ s.host.owner = 0 ∧
  s.host.slots = [] ∧ s.host.pmap = [] ∧ s.host.ctxbase = 0 ∧ (∀ c, s.ctxValid c = false) ∧ s.nodes = [] ∧
  (∀ t, (s.tileAt t).task = none ∧ (s.tileAt t).failed = false ∧ (s.tileAt t).gate = .awake) ∧
  s.windowRead 0x40020000 = 13600 ∧ s.windowRead 0x40020008 = BitVec.ofNat 64 (200 * 2 ^ 48 + 4 * 2 ^ 36 + 0xFFFF * 2 ^ 20) ∧
  ∀ off ∈ [0x00008, 0x00010, 0x00018, 0x10000, 0x10010, 0x10018, 0x20008, 0x30000, 0x30008, 0x30010, 0x40000000, 0x40000008, 0x40000010,
    0x40000018, 0x40000020, 0x40000028, 0x40000030, 0x40000038, 0x40000040, 0x40000100, 0x40001000, 0x40001800, 0x40008000, 0x40020100, 0x40020200,
    0x40020208], s.windowRead off = 0

/-- Every operation and event answers a next state on every state; a step stops only where a failed bring-up step holds the module in
reset and no input is on its way.  Rests on the model's choices of log 85. -/
def Obligations.OnlyAFailedBringUpStops : Prop :=
  (∀ (i : Instr) (s : State), ∃ t, exec i s = .next t) ∧
  ∀ (s : State), (s.host.failedStep.isSome = true ∧ s.inputs = [] → step s = .fault .heldInReset) ∧
    (s.host.failedStep = none ∨ s.inputs ≠ [] → ∃ t, step s = .next t)

/-- R357: POPC. -/
def Obligations.PopcCountsTheBits : Prop :=
  (∀ (h : Hdr) (d a : SReg) (s : State), guardOf h s.tile.regs = true →
    ∃ t, exec (.popc h d a) s = .next t ∧ ∃ v : Word, v.toNat = ((List.range 64).filter fun k => (sx s a).getLsbD k).length ∧ v.toNat ≤ 64 ∧
      Sends h .S (span h 1) [⟨lastIssue s h 1 + 1, s.tile.iw.seq, .sreg d v, 0⟩] id s t) ∧
  (∀ (v : Bool) (dl : BitVec 10) (pr : BitVec 3) (pn : Bool) (d a b : BitVec 6) (f : BitVec 23) (next : Option Word),
    decode (BitVec.ofBool v ++ dl ++ (0x11 : BitVec 8) ++ pr ++ BitVec.ofBool pn ++ d ++ a ++ b ++ f) next =
      if b = 0 ∧ f = 0 then .ok (.popc ⟨v, dl, pr, pn⟩ d a) else .error .reserved) ∧
  decode 0x0002201820000000 none = .ok (.popc Hdr.plain 3 1) ∧
  ∀ (x : Tile) (d a b : BitVec 6) (f : BitVec 23), x.fetch.pc < x.words →
    x.progWord x.fetch.pc = (0 : BitVec 11) ++ (0x11 : BitVec 8) ++ (0 : BitVec 4) ++ d ++ a ++ b ++ f → b ≠ 0 ∨ f ≠ 0 →
    x.fetched = .error (x.progWord x.fetch.pc)

/-- R278: OWNERBRK of the management controller, whoever owns the package. -/
def Obligations.OwnerbrkRecoversThePackage : Prop :=
  ∀ (v : Word) (s : State), ∀ e ∈ [Instr.ownerbrk v, .registerWrite 0x8_4000_0038 v .mc],
    (s.host.owner = v → ∃ t, exec e s = .next t ∧ t = { s with host := { s.host with owner := t.host.owner, ownerbrk := v } } ∧
      t.host.owner.extractLsb' 62 2 = 2 ∧ t.host.owner.extractLsb' 50 12 = 0 ∧ t.host.owner.extractLsb' 0 50 = 0) ∧
    (s.host.owner ≠ v → exec e s = .next s)

/-- The module power is sampled every 4,096 host-die cycles, each die's duty falls, rises or stays by the sample, and the thresholds
release their tasks in turn; a threshold crosses where the sample has come to the other side of its level in its direction.  Rests on the
model's choices of log 5, 27 and 29. -/
def Obligations.PowerSamplesSetTheDuty : Prop :=
  (∀ (p : BitVec 32) (s s1 : State), s.host.psample < s.host.cyc.toNat / 4096 → (begun s).samplePower p = s1 → (Alone s ∨ Unasked s1) →
    exec (.powerSample p) s = .next (tried s s1)) ∧
  (∀ (p : BitVec 32) (s : State), s.host.cyc.toNat / 4096 ≤ s.host.psample → exec (.powerSample p) s = .next s) ∧
  (∀ (p : BitVec 32) (s : State), ∃ y : State, y.host.pmod = p ∧ y.host.psample = s.host.cyc.toNat / 4096 ∧ y.host.sampled = y.powerCounters ∧
    (∀ d, d < 4 → let k := vget s.host.duty d
      vget y.host.duty d =
        if s.host.plimit < p ∧ s.host.kmin < k then k - 1
        else if p.toNat + s.host.physt.toNat < s.host.plimit.toNat ∧ k < 15 then k + 1 else k) ∧
    s.samplePower p = (((List.range 16).filter fun j => (vget y.host.thresholds j).crossed s.host.sampled y.host.sampled).forM
      (fun j => crossing j (vget y.host.thresholds j)) y).2) ∧
  (∀ (h : Threshold) (old new : List Nat) (x y : Nat), old[h.sel.toNat]? = some x → new[h.sel.toNat]? = some y →
    (h.crossed old new = true ↔ h.en = true ∧ if h.dir then x < h.level.toNat ∧ h.level.toNat ≤ y else h.level.toNat ≤ x ∧ y < h.level.toNat)) ∧
  (∀ (s : State), s.powerCounters.length = 13 ∧ s.powerCounters[0]? = some s.host.pmod.toNat ∧
    ∀ d, d < 4 → s.powerCounters[9 + d]? = some ((s.die d).votefix.toNat + (s.die d).parfix.toNat))
end

