-- ==== Sys2Proof/Laws/Assoc.lean ====
section
/-! SUPPORT. Sparse maps: what is read after a change, and that every change keeps the canonical form. -/

namespace Sys2Proof.Machine
open Sys2Proof

/-- A bound on keys as a number: every key is at least it. -/
def Assoc.from_ : Option Nat → Nat
  | none => 0
  | some k => k + 1

/-- The canonical form of a map that is not empty. -/
theorem Assoc.wfFrom_cons {α : Type} [DecidableEq α] (d : α) (lo : Option Nat) (j : Nat) (x : α) (r : Assoc α) :
    Assoc.wfFrom d lo ((j, x) :: r) = true ↔ Assoc.from_ lo ≤ j ∧ x ≠ d ∧ Assoc.wfFrom d (some j) r = true := by
  cases lo <;> simp [Assoc.wfFrom, Assoc.from_, and_assoc, Nat.succ_le_iff]

/-- A lower bound may be lowered. -/
theorem Assoc.wfFrom_weaken {α : Type} [DecidableEq α] {d : α} {lo hi : Option Nat} {l : Assoc α} (h : Assoc.wfFrom d hi l = true)
    (hl : Assoc.from_ lo ≤ Assoc.from_ hi) : Assoc.wfFrom d lo l = true := by
  match l with
  | [] => rfl
  | (j, x) :: r => exact (Assoc.wfFrom_cons d lo j x r).2 (((Assoc.wfFrom_cons d hi j x r).1 h).imp_left (Nat.le_trans hl))

/-- A key below all that are listed is not listed. -/
theorem Assoc.get_below {α : Type} [DecidableEq α] {d : α} {k : Nat} {lo : Option Nat} {l : Assoc α} (h : Assoc.wfFrom d lo l = true)
    (hk : k < Assoc.from_ lo) : Assoc.get d k l = d := by
  induction l generalizing lo with
  | nil => rfl
  | cons e r ih =>
    obtain ⟨hj, -, hr⟩ := (Assoc.wfFrom_cons d lo e.1 e.2 r).1 h
    have hlt : k < e.1 + 1 := Nat.lt_succ_of_lt (Nat.lt_of_lt_of_le hk hj)
    show (if e.1 = k then e.2 else Assoc.get d k r) = d
    rw [if_neg (Nat.ne_of_gt (Nat.lt_of_lt_of_le hk hj)), ih hr hlt]

theorem Assoc.get_put {α : Type} (d : α) (k a : Nat) (x : α) (l : Assoc α) :
    Assoc.get d a (Assoc.put k x l) = if a = k then x else Assoc.get d a l := by
  induction l with
  | nil => simp [Assoc.put, Assoc.get, eq_comm]
  | cons e r ih =>
    obtain ⟨j, y⟩ := e
    unfold Assoc.put
    split
    · simp [Assoc.get, eq_comm]
    · split
      · rename_i hj
        subst hj
        simp only [Assoc.get]
        by_cases e : a = j
        · subst e; rw [if_pos rfl, if_pos rfl]
        · rw [if_neg (Ne.symm e), if_neg e, if_neg (Ne.symm e)]
      · simp only [Assoc.get, ih]; split <;> simp_all

theorem Assoc.get_drop {α : Type} [DecidableEq α] {d : α} {lo : Option Nat} {l : Assoc α} (h : Assoc.wfFrom d lo l = true) (k a : Nat) :
    Assoc.get d a (Assoc.drop k l) = if a = k then d else Assoc.get d a l := by
  induction l generalizing lo with
  | nil => simp [Assoc.drop, Assoc.get]
  | cons e r ih =>
    obtain ⟨j, y⟩ := e
    obtain ⟨-, -, hr⟩ := (Assoc.wfFrom_cons d lo j y r).1 h
    unfold Assoc.drop
    split
    · subst_vars
      simp only [Assoc.get]
      by_cases e : a = j
      · subst e; rw [if_pos rfl]; exact Assoc.get_below hr (Nat.lt_succ_self _)
      · rw [if_neg e, if_neg (Ne.symm e)]
    · simp only [Assoc.get, ih hr]; split <;> simp_all

/-- What is read after a key has been set. -/
theorem Assoc.get_set {α : Type} [DecidableEq α] {d : α} {l : Assoc α} (h : Assoc.wf d l = true) (k a : Nat) (x : α) :
    Assoc.get d a (Assoc.set d k x l) = if a = k then x else Assoc.get d a l := by
  unfold Assoc.set
  split
  · subst_vars; exact Assoc.get_drop h k a
  · exact Assoc.get_put d k a x l

theorem Assoc.wfFrom_put {α : Type} [DecidableEq α] {d : α} {lo : Option Nat} {l : Assoc α} {k : Nat} {x : α} (h : Assoc.wfFrom d lo l = true)
    (hk : Assoc.from_ lo ≤ k) (hx : x ≠ d) : Assoc.wfFrom d lo (Assoc.put k x l) = true := by
  induction l generalizing lo with
  | nil => exact (Assoc.wfFrom_cons d lo k x []).2 ⟨hk, hx, rfl⟩
  | cons e r ih =>
    obtain ⟨j, y⟩ := e
    obtain ⟨hj, hy, hr⟩ := (Assoc.wfFrom_cons d lo j y r).1 h
    unfold Assoc.put
    split
    · rename_i hlt
      exact (Assoc.wfFrom_cons _ _ _ _ _).2 ⟨hk, hx, (Assoc.wfFrom_cons _ _ _ _ _).2 ⟨hlt, hy, hr⟩⟩
    · split
      · subst_vars; exact (Assoc.wfFrom_cons _ _ _ _ _).2 ⟨hk, hx, hr⟩
      · refine (Assoc.wfFrom_cons _ _ _ _ _).2 ⟨hj, hy, ih hr ?_⟩
        show j + 1 ≤ k; omega

theorem Assoc.wfFrom_drop {α : Type} [DecidableEq α] {d : α} {lo : Option Nat} {l : Assoc α} (h : Assoc.wfFrom d lo l = true) (k : Nat) :
    Assoc.wfFrom d lo (Assoc.drop k l) = true := by
  induction l generalizing lo with
  | nil => rfl
  | cons e r ih =>
    obtain ⟨j, y⟩ := e
    obtain ⟨hj, hy, hr⟩ := (Assoc.wfFrom_cons d lo j y r).1 h
    unfold Assoc.drop
    split
    · exact Assoc.wfFrom_weaken hr (Nat.le_succ_of_le hj)
    · exact (Assoc.wfFrom_cons _ _ _ _ _).2 ⟨hj, hy, ih hr⟩

/-- Setting a key keeps the canonical form. -/
theorem Assoc.wf_set {α : Type} [DecidableEq α] {d : α} {l : Assoc α} (h : Assoc.wf d l = true) (k : Nat) (x : α) :
    Assoc.wf d (Assoc.set d k x l) = true := by
  unfold Assoc.set
  split
  · exact Assoc.wfFrom_drop h k
  · exact Assoc.wfFrom_put h (Nat.zero_le _) ‹_›

/-- Leaving out some keys keeps the canonical form. -/
theorem Assoc.wfFrom_filter {α : Type} [DecidableEq α] {d : α} {lo : Option Nat} {l : Assoc α} (h : Assoc.wfFrom d lo l = true)
    (f : Nat × α → Bool) : Assoc.wfFrom d lo (l.filter f) = true := by
  induction l generalizing lo with
  | nil => rfl
  | cons e r ih =>
    obtain ⟨hj, hy, hr⟩ := (Assoc.wfFrom_cons d lo e.1 e.2 r).1 h
    rw [List.filter_cons]
    split
    · exact (Assoc.wfFrom_cons _ _ _ _ _).2 ⟨hj, hy, ih hr⟩
    · exact Assoc.wfFrom_weaken (ih hr) (Nat.le_succ_of_le hj)

end Sys2Proof.Machine
end

