-- ==== Sys2Proof/Laws/Issue.lean ====
section
/-! SUPPORT. What the operations of an issue do, said once each (R68, R71, R74, R83, R84). -/

namespace Sys2Proof.Machine
open Sys2Proof

/-! ### Occupancies -/

/-- Reading an occupancy after setting one. -/
theorem Occ.get_set (o : Occ) (e f : Eng) (n : Nat) : (o.set e n).get f = if e = f then n else o.get f := by
  cases e <;> cases f <;> rfl

/-! ### The counts of an issue -/

/-- Two tiles that differ at most in what an issue keeps: its cycle, the snapshot, the open chunks and fetch after a word delivered
alone. -/
def Tile.issueOnly (x y : Tile) : Prop :=
  y = { x with lastIssue := y.lastIssue, snap := y.snap, cur := y.cur, older := y.older, fstop := y.fstop, fresume := y.fresume }

theorem Tile.issueOnly.refl (x : Tile) : x.issueOnly x := by unfold Tile.issueOnly; rfl

theorem Tile.issueOnly.trans {x y z : Tile} (h : x.issueOnly y) (g : y.issueOnly z) : x.issueOnly z := by
  unfold Tile.issueOnly at *
  rw [h] at g
  exact g

/-- Applying a function to the open chunk of a word changes the two open chunks only. -/
theorem Tile.modChunk_issueOnly (t : Tile) (q : Nat) (f : Chunk → Chunk) : t.issueOnly (t.modChunk q f) := by
  unfold Tile.modChunk Tile.issueOnly; split <;> (try split) <;> rfl

/-- What a function on the open chunk keeps of a chunk, it keeps of both open chunks. -/
theorem Tile.modChunk_keeps {α : Type} (t : Tile) (q : Nat) (f : Chunk → Chunk) (g : Chunk → α) (hf : ∀ c, g (f c) = g c) :
    (t.modChunk q f).cur.map g = t.cur.map g ∧ (t.modChunk q f).older.map g = t.older.map g := by
  unfold Tile.modChunk
  split
  · split
    · simp_all
    · cases h : t.older <;> simp_all
  · cases h : t.older <;> simp_all

theorem Tile.stampIssue_issueOnly (t : Tile) (c : Nat) : t.issueOnly (t.stampIssue c) := rfl

theorem Tile.startNext_issueOnly (t : Tile) : t.issueOnly t.startNext := by
  unfold Tile.startNext Tile.issueOnly; split <;> (try split) <;> rfl

/-- The start state of the younger chunk is all that `startNext` changes. -/
theorem Tile.startNext_keeps {α : Type} (t : Tile) (g : Chunk → α) (hg : ∀ (c : Chunk) x, g { c with start := x } = g c) :
    t.startNext.cur.map g = t.cur.map g ∧ t.startNext.older = t.older := by
  unfold Tile.startNext; split
  · split <;> simp_all
  · simp

theorem Tile.loneGo_issueOnly (t : Tile) (c : Nat) : t.issueOnly (t.loneGo c) := by
  unfold Tile.loneGo Tile.issueOnly; split <;> (try split) <;> rfl

/-- Fetch is all that `loneGo` changes. -/
theorem Tile.loneGo_chunks (t : Tile) (c : Nat) :
    (t.loneGo c).cur = t.cur ∧ (t.loneGo c).older = t.older ∧ (t.loneGo c).lastIssue = t.lastIssue := by
  unfold Tile.loneGo; split
  · split <;> simp
  · simp

/-- An issue changes what it keeps and nothing else of the tile. -/
theorem Tile.wordIssued_issueOnly (t : Tile) (c : Nat) (e : Eng) (k : Nat) : t.issueOnly (t.wordIssued c e k) :=
  (((t.modChunk_issueOnly _ _).trans (Tile.stampIssue_issueOnly _ c)).trans (Tile.startNext_issueOnly _)).trans (Tile.loneGo_issueOnly _ c)

/-- An issue keeps of an open chunk what its counts and its start state do not touch. -/
theorem Tile.wordIssued_keeps {α : Type} (t : Tile) (c : Nat) (e : Eng) (k : Nat) (g : Chunk → α)
    (hc : ∀ (x : Chunk) i a b, g { x with issued := i, lastS := a, lastAt := b } = g x)
    (hs : ∀ (x : Chunk) y, g { x with start := y } = g x) :
    (t.wordIssued c e k).cur.map g = t.cur.map g ∧ (t.wordIssued c e k).older.map g = t.older.map g := by
  unfold Tile.wordIssued
  rw [(Tile.loneGo_chunks _ _).1, (Tile.loneGo_chunks _ _).2.1, (Tile.startNext_keeps _ g hs).1, (Tile.startNext_keeps _ g hs).2]
  exact t.modChunk_keeps _ _ g fun x => hc x _ _ _

theorem Tile.startNext_lastIssue (t : Tile) : t.startNext.lastIssue = t.lastIssue := by
  unfold Tile.startNext; split <;> (try split) <;> rfl

/-- The cycle of the last issue. -/
theorem Tile.wordIssued_lastIssue (t : Tile) (c : Nat) (e : Eng) (k : Nat) : (t.wordIssued c e k).lastIssue = c := by
  unfold Tile.wordIssued
  rw [(Tile.loneGo_chunks _ _).2.2, Tile.startNext_lastIssue]
  rfl

/-- Occupancies and results in flight stay through the counts of an issue. -/
theorem Tile.wordIssued_flight (t : Tile) (c : Nat) (e : Eng) (k : Nat) :
    (t.wordIssued c e k).occ = t.occ ∧ (t.wordIssued c e k).ends = t.ends ∧ (t.wordIssued c e k).inflight = t.inflight
      ∧ (t.wordIssued c e k).votes = t.votes ∧ (t.wordIssued c e k).regs = t.regs ∧ (t.wordIssued c e k).iw = t.iw
      ∧ (t.wordIssued c e k).loads = t.loads ∧ (t.wordIssued c e k).fetch = t.fetch := by
  have h := t.wordIssued_issueOnly c e k
  unfold Tile.issueOnly at h
  rw [h]
  exact ⟨rfl, rfl, rfl, rfl, rfl, rfl, rfl, rfl⟩

/-- A tile reads its own buffered stores as before. -/
theorem Tile.wordIssued_buffered (t : Tile) (c : Nat) (e : Eng) (k : Nat) : (t.wordIssued c e k).buffered = t.buffered := by
  have g := t.wordIssued_keeps c e k (·.stores) (fun _ _ _ _ => rfl) (fun _ _ => rfl)
  unfold Tile.buffered
  rw [g.1, g.2]

/-! ### The three ways through an issue -/

/-- An issue whose guard holds and whose effect is done; with V = 1 its results are those of three issues (R74). -/
theorem issueW_done {e : Eng} {occ k : Nat} {h : Hdr} {body : State → Act} {s s2 : State}
    (hg : guardOf h s.tile.regs = true) (hb : body (s.occupied e occ h) = .done s2) :
    issueW e occ k h body s =
      .next ((if h.v then (s.occupied e occ h).thrice s2 body occ else s2).onTile fun t => t.wordIssued s.now e k) := by
  unfold issueW
  rw [if_pos hg]
  rw [hb]

/-- An issue with V = 0 whose guard holds and whose effect is done. -/
theorem issueW_done_once {e : Eng} {occ k : Nat} {h : Hdr} {body : State → Act} {s s2 : State} (hv : h.v = false)
    (hg : guardOf h s.tile.regs = true) (hb : body (s.occupied e occ h) = .done s2) :
    issueW e occ k h body s = .next (s2.onTile fun t => t.wordIssued s.now e k) := by
  rw [issueW_done hg hb, hv]
  rfl

/-- An issue that traps takes its trap at the end of its chunk before it (R100). -/
theorem issueW_trap {e : Eng} {occ k : Nat} {h : Hdr} {body : State → Act} {s : State} {c : Byte} {v : Word}
    (hg : guardOf h s.tile.regs = true) (hb : body (s.occupied e occ h) = .trap c v) :
    issueW e occ k h body s = .next (s.preciseTrap c v) := by
  unfold issueW
  rw [if_pos hg]
  rw [hb]

/-- An issue whose guard does not hold only issues (R68). -/
theorem issueW_off {e : Eng} {occ k : Nat} {h : Hdr} {body : State → Act} {s : State} (hg : guardOf h s.tile.regs = false) :
    issueW e occ k h body s = .next ((s.occupied e occ h).onTile fun t => t.wordIssued s.now e k) := by
  unfold issueW; simp [hg]

/-- No flag, no exception. -/
theorem enabledFlags_zero (w : Word) : enabledFlags w 0 = 0 := by unfold enabledFlags; simp

/-- A result without flags records no exception. -/
theorem Tile.raise_zero (t : Tile) : t.raise 0 = t := by
  unfold Tile.raise
  rfl

/-- A result without flags: it joins those in flight, or with V those awaiting their vote (R74, R166). -/
theorem State.result_plain (s : State) (h : Hdr) (occ lat : Nat) (d : Dest) :
    s.result h occ lat d 0 = { s with tile := { s.tile with
      inflight := s.tile.inflight ++ (if h.v then [] else [⟨s.now + (if h.v then 2 * occ else 0) + lat, s.tile.iw.seq, d, 0⟩])
      votes := s.tile.votes ++ (if h.v then
        let l : Landing := ⟨s.now + (if h.v then 2 * occ else 0) + lat, s.tile.iw.seq, d, 0⟩
        [⟨l, l, l, 32⟩] else []) } } := by
  unfold State.result Tile.result State.onTile
  simp only [Tile.raise_zero]
  cases h.v <;> simp

end Sys2Proof.Machine
end

