-- ==== Sys2Proof/Laws/Memory.lean ====
section
/-! SUPPORT. Memory: a byte read after a write, and the canonical form, which every operation on memory keeps (R2, R11, R275). -/

namespace Sys2Proof.Machine
open Sys2Proof

/-! ### The canonical form -/

theorem Memory.wf_put {m : Memory} (h : m.wf = true) (a : Nat) (b : Byte) : (m.put a b).wf = true := Assoc.wf_set h a b

theorem Memory.wf_putMask {m : Memory} (h : m.wf = true) (a : Nat) (k b : Byte) : (m.putMask a k b).wf = true := Memory.wf_put h a _

theorem Memory.wf_write {m : Memory} (h : m.wf = true) (a : Nat) (l : List Byte) : (m.write a l).wf = true := by
  induction l generalizing m a with
  | nil => exact h
  | cons b r ih => exact ih (Memory.wf_put h a b) (a + 1)

theorem Memory.wf_writeCells {m : Memory} (h : m.wf = true) (l : List (Nat × Byte × Byte)) : (m.writeCells l).wf = true := by
  induction l generalizing m with
  | nil => exact h
  | cons c r ih => exact ih (Memory.wf_putMask h c.1 c.2.1 c.2.2)

theorem Memory.wf_filter {m : Memory} (h : m.wf = true) (f : Host.Cell → Bool) : Memory.wf (m.filter f) = true := Assoc.wfFrom_filter h f

theorem Memory.wf_copyFrame {m : Memory} (h : m.wf = true) (old new : Nat) : Memory.wf (copyFrame m old new) = true := by
  unfold copyFrame
  generalize m.filter (fun c => old ≤ c.1 && c.1 < old + 0x10000) = src
  have hr : Memory.wf (m.filter fun c => !(new ≤ c.1 && c.1 < new + 0x10000)) = true := Memory.wf_filter h _
  revert hr
  generalize m.filter (fun c => !(new ≤ c.1 && c.1 < new + 0x10000)) = rest
  intro hr
  induction src generalizing rest with
  | nil => exact hr
  | cons c r ih => exact ih _ (Memory.wf_put hr _ _)

/-- Memory at reset lists nothing. -/
theorem Memory.wf_reset : Memory.wf State.reset.mem = true := rfl

/-! ### A byte after a write -/

theorem Memory.byte_put {m : Memory} (h : m.wf = true) (a c : Nat) (b : Byte) : (m.put a b).byte c = if c = a then b else m.byte c :=
  Assoc.get_set h a c b

theorem Memory.byte_write {m : Memory} (h : m.wf = true) (a c : Nat) (l : List Byte) :
    (m.write a l).byte c = if a ≤ c ∧ c < a + l.length then l.getD (c - a) 0 else m.byte c := by
  induction l generalizing m a with
  | nil => simp [Memory.write] <;> omega
  | cons b r ih =>
    rw [Memory.write, ih (Memory.wf_put h a b), Memory.byte_put h]
    by_cases e : c = a
    · subst e; simp <;> omega
    · by_cases g : a + 1 ≤ c ∧ c < a + 1 + r.length
      · rw [if_pos g, if_pos (by simp; omega), show c - a = (c - (a + 1)) + 1 by omega, List.getD_cons_succ]
      · rw [if_neg g, if_neg e, if_neg (by simp; omega)]

/-! ### The operations of the state that write memory -/

theorem State.wf_homeWrite {s : State} (h : Memory.wf s.mem = true) (a : Nat) (b : List Byte) : Memory.wf (s.homeWrite a b).mem = true :=
  Memory.wf_write h a b

theorem State.wf_homeWrite64 {s : State} (h : Memory.wf s.mem = true) (a : Nat) (v : Word) : Memory.wf (s.homeWrite64 a v).mem = true :=
  Memory.wf_write h a _

theorem State.wf_landCells {s : State} (h : Memory.wf s.mem = true) (l : List (Nat × Byte × Byte)) : Memory.wf (s.landCells l).mem = true :=
  Memory.wf_writeCells h l

theorem State.wf_setFrame {s : State} (h : Memory.wf s.mem = true) (frame ms : Nat) (gen : Option Byte) :
    Memory.wf (s.setFrame frame ms gen).mem = true :=
  Memory.wf_write h _ _

theorem State.wf_fillHere {s : State} (h : Memory.wf s.mem = true) (d : Nat) (m : Migration) : Memory.wf (s.fillHere d m).mem = true := by
  unfold State.fillHere
  exact State.wf_setFrame (s := { s with mem := copyFrame s.mem m.old m.new, bad := _, coded := _ }) (Memory.wf_copyFrame h m.old m.new) m.new 3 none

end Sys2Proof.Machine
end

