-- ==== Sys2Proof/Laws/State.lean ====
section
/-! SUPPORT. One lemma per field and update of State, so that no proof unfolds a record update; and what a tile or a die reads as after a
change of one. -/

namespace Sys2Proof.Machine
open Sys2Proof

/-! ### A change of the tile in turn -/

@[simp] theorem State.onTile_now (s : State) (f : Tile → Tile) : (s.onTile f).now = s.now := rfl
@[simp] theorem State.onTile_tileId (s : State) (f : Tile → Tile) : (s.onTile f).tileId = s.tileId := rfl
@[simp] theorem State.onTile_tile (s : State) (f : Tile → Tile) : (s.onTile f).tile = f s.tile := rfl
@[simp] theorem State.onTile_others (s : State) (f : Tile → Tile) : (s.onTile f).others = s.others := rfl
@[simp] theorem State.onTile_turn (s : State) (f : Tile → Tile) : (s.onTile f).turn = s.turn := rfl
@[simp] theorem State.onTile_moves (s : State) (f : Tile → Tile) : (s.onTile f).moves = s.moves := rfl
@[simp] theorem State.onTile_dies (s : State) (f : Tile → Tile) : (s.onTile f).dies = s.dies := rfl
@[simp] theorem State.onTile_host (s : State) (f : Tile → Tile) : (s.onTile f).host = s.host := rfl
@[simp] theorem State.onTile_mem (s : State) (f : Tile → Tile) : (s.onTile f).mem = s.mem := rfl
@[simp] theorem State.onTile_full (s : State) (f : Tile → Tile) : (s.onTile f).full = s.full := rfl
@[simp] theorem State.onTile_bad (s : State) (f : Tile → Tile) : (s.onTile f).bad = s.bad := rfl
@[simp] theorem State.onTile_coded (s : State) (f : Tile → Tile) : (s.onTile f).coded = s.coded := rfl
@[simp] theorem State.onTile_nodes (s : State) (f : Tile → Tile) : (s.onTile f).nodes = s.nodes := rfl
@[simp] theorem State.onTile_wb (s : State) (f : Tile → Tile) : (s.onTile f).wb = s.wb := rfl
@[simp] theorem State.onTile_commitNo (s : State) (f : Tile → Tile) : (s.onTile f).commitNo = s.commitNo := rfl
@[simp] theorem State.onTile_grant (s : State) (f : Tile → Tile) : (s.onTile f).grant = s.grant := rfl
@[simp] theorem State.onTile_grantAt (s : State) (f : Tile → Tile) : (s.onTile f).grantAt = s.grantAt := rfl
@[simp] theorem State.onTile_served (s : State) (f : Tile → Tile) : (s.onTile f).served = s.served := rfl
@[simp] theorem State.onTile_serving (s : State) (f : Tile → Tile) : (s.onTile f).serving = s.serving := rfl
@[simp] theorem State.onTile_soloTile (s : State) (f : Tile → Tile) : (s.onTile f).soloTile = s.soloTile := rfl
@[simp] theorem State.onTile_soloQueue (s : State) (f : Tile → Tile) : (s.onTile f).soloQueue = s.soloQueue := rfl
@[simp] theorem State.onTile_far (s : State) (f : Tile → Tile) : (s.onTile f).far = s.far := rfl
@[simp] theorem State.onTile_arrivals (s : State) (f : Tile → Tile) : (s.onTile f).arrivals = s.arrivals := rfl
@[simp] theorem State.onTile_poison (s : State) (f : Tile → Tile) : (s.onTile f).poison = s.poison := rfl
@[simp] theorem State.onTile_povf (s : State) (f : Tile → Tile) : (s.onTile f).povf = s.povf := rfl
@[simp] theorem State.onTile_rrCtx (s : State) (f : Tile → Tile) : (s.onTile f).rrCtx = s.rrCtx := rfl
@[simp] theorem State.onTile_rrQueue (s : State) (f : Tile → Tile) : (s.onTile f).rrQueue = s.rrQueue := rfl
@[simp] theorem State.onTile_pinMoves (s : State) (f : Tile → Tile) : (s.onTile f).pinMoves = s.pinMoves := rfl
@[simp] theorem State.onTile_pinned (s : State) (f : Tile → Tile) : (s.onTile f).pinned = s.pinned := rfl
@[simp] theorem State.onTile_shrinks (s : State) (f : Tile → Tile) : (s.onTile f).shrinks = s.shrinks := rfl
@[simp] theorem State.onTile_stopped (s : State) (f : Tile → Tile) : (s.onTile f).stopped = s.stopped := rfl
@[simp] theorem State.onTile_pulled (s : State) (f : Tile → Tile) : (s.onTile f).pulled = s.pulled := rfl
@[simp] theorem State.onTile_needs (s : State) (f : Tile → Tile) : (s.onTile f).needs = s.needs := rfl
@[simp] theorem State.onTile_posts (s : State) (f : Tile → Tile) : (s.onTile f).posts = s.posts := rfl
@[simp] theorem State.onTile_stalled (s : State) (f : Tile → Tile) : (s.onTile f).stalled = s.stalled := rfl
@[simp] theorem State.onTile_scrubs (s : State) (f : Tile → Tile) : (s.onTile f).scrubs = s.scrubs := rfl
@[simp] theorem State.onTile_parkOrder (s : State) (f : Tile → Tile) : (s.onTile f).parkOrder = s.parkOrder := rfl
@[simp] theorem State.onTile_free (s : State) (f : Tile → Tile) : (s.onTile f).free = s.free := rfl
@[simp] theorem State.onTile_inputs (s : State) (f : Tile → Tile) : (s.onTile f).inputs = s.inputs := rfl

/-! ### A change of a die -/

@[simp] theorem State.modDie_now (s : State) (d : Nat) (f : Die → Die) : (s.modDie d f).now = s.now := rfl
@[simp] theorem State.modDie_tileId (s : State) (d : Nat) (f : Die → Die) : (s.modDie d f).tileId = s.tileId := rfl
@[simp] theorem State.modDie_tile (s : State) (d : Nat) (f : Die → Die) : (s.modDie d f).tile = s.tile := rfl
@[simp] theorem State.modDie_others (s : State) (d : Nat) (f : Die → Die) : (s.modDie d f).others = s.others := rfl
@[simp] theorem State.modDie_turn (s : State) (d : Nat) (f : Die → Die) : (s.modDie d f).turn = s.turn := rfl
@[simp] theorem State.modDie_moves (s : State) (d : Nat) (f : Die → Die) : (s.modDie d f).moves = s.moves := rfl
@[simp] theorem State.modDie_host (s : State) (d : Nat) (f : Die → Die) : (s.modDie d f).host = s.host := rfl
@[simp] theorem State.modDie_mem (s : State) (d : Nat) (f : Die → Die) : (s.modDie d f).mem = s.mem := rfl
@[simp] theorem State.modDie_full (s : State) (d : Nat) (f : Die → Die) : (s.modDie d f).full = s.full := rfl
@[simp] theorem State.modDie_bad (s : State) (d : Nat) (f : Die → Die) : (s.modDie d f).bad = s.bad := rfl
@[simp] theorem State.modDie_coded (s : State) (d : Nat) (f : Die → Die) : (s.modDie d f).coded = s.coded := rfl
@[simp] theorem State.modDie_nodes (s : State) (d : Nat) (f : Die → Die) : (s.modDie d f).nodes = s.nodes := rfl
@[simp] theorem State.modDie_wb (s : State) (d : Nat) (f : Die → Die) : (s.modDie d f).wb = s.wb := rfl
@[simp] theorem State.modDie_commitNo (s : State) (d : Nat) (f : Die → Die) : (s.modDie d f).commitNo = s.commitNo := rfl
@[simp] theorem State.modDie_grant (s : State) (d : Nat) (f : Die → Die) : (s.modDie d f).grant = s.grant := rfl
@[simp] theorem State.modDie_grantAt (s : State) (d : Nat) (f : Die → Die) : (s.modDie d f).grantAt = s.grantAt := rfl
@[simp] theorem State.modDie_served (s : State) (d : Nat) (f : Die → Die) : (s.modDie d f).served = s.served := rfl
@[simp] theorem State.modDie_serving (s : State) (d : Nat) (f : Die → Die) : (s.modDie d f).serving = s.serving := rfl
@[simp] theorem State.modDie_soloTile (s : State) (d : Nat) (f : Die → Die) : (s.modDie d f).soloTile = s.soloTile := rfl
@[simp] theorem State.modDie_soloQueue (s : State) (d : Nat) (f : Die → Die) : (s.modDie d f).soloQueue = s.soloQueue := rfl
@[simp] theorem State.modDie_far (s : State) (d : Nat) (f : Die → Die) : (s.modDie d f).far = s.far := rfl
@[simp] theorem State.modDie_arrivals (s : State) (d : Nat) (f : Die → Die) : (s.modDie d f).arrivals = s.arrivals := rfl
@[simp] theorem State.modDie_poison (s : State) (d : Nat) (f : Die → Die) : (s.modDie d f).poison = s.poison := rfl
@[simp] theorem State.modDie_povf (s : State) (d : Nat) (f : Die → Die) : (s.modDie d f).povf = s.povf := rfl
@[simp] theorem State.modDie_rrCtx (s : State) (d : Nat) (f : Die → Die) : (s.modDie d f).rrCtx = s.rrCtx := rfl
@[simp] theorem State.modDie_rrQueue (s : State) (d : Nat) (f : Die → Die) : (s.modDie d f).rrQueue = s.rrQueue := rfl
@[simp] theorem State.modDie_pinMoves (s : State) (d : Nat) (f : Die → Die) : (s.modDie d f).pinMoves = s.pinMoves := rfl
@[simp] theorem State.modDie_pinned (s : State) (d : Nat) (f : Die → Die) : (s.modDie d f).pinned = s.pinned := rfl
@[simp] theorem State.modDie_shrinks (s : State) (d : Nat) (f : Die → Die) : (s.modDie d f).shrinks = s.shrinks := rfl
@[simp] theorem State.modDie_stopped (s : State) (d : Nat) (f : Die → Die) : (s.modDie d f).stopped = s.stopped := rfl
@[simp] theorem State.modDie_pulled (s : State) (d : Nat) (f : Die → Die) : (s.modDie d f).pulled = s.pulled := rfl
@[simp] theorem State.modDie_needs (s : State) (d : Nat) (f : Die → Die) : (s.modDie d f).needs = s.needs := rfl
@[simp] theorem State.modDie_posts (s : State) (d : Nat) (f : Die → Die) : (s.modDie d f).posts = s.posts := rfl
@[simp] theorem State.modDie_stalled (s : State) (d : Nat) (f : Die → Die) : (s.modDie d f).stalled = s.stalled := rfl
@[simp] theorem State.modDie_scrubs (s : State) (d : Nat) (f : Die → Die) : (s.modDie d f).scrubs = s.scrubs := rfl
@[simp] theorem State.modDie_parkOrder (s : State) (d : Nat) (f : Die → Die) : (s.modDie d f).parkOrder = s.parkOrder := rfl
@[simp] theorem State.modDie_free (s : State) (d : Nat) (f : Die → Die) : (s.modDie d f).free = s.free := rfl
@[simp] theorem State.modDie_inputs (s : State) (d : Nat) (f : Die → Die) : (s.modDie d f).inputs = s.inputs := rfl

/-! ### A change of a migration -/

@[simp] theorem State.modMig_now (s : State) (d : Nat) (f : Migration → Migration) : (s.modMig d f).now = s.now := rfl
@[simp] theorem State.modMig_tileId (s : State) (d : Nat) (f : Migration → Migration) : (s.modMig d f).tileId = s.tileId := rfl
@[simp] theorem State.modMig_tile (s : State) (d : Nat) (f : Migration → Migration) : (s.modMig d f).tile = s.tile := rfl
@[simp] theorem State.modMig_others (s : State) (d : Nat) (f : Migration → Migration) : (s.modMig d f).others = s.others := rfl
@[simp] theorem State.modMig_turn (s : State) (d : Nat) (f : Migration → Migration) : (s.modMig d f).turn = s.turn := rfl
@[simp] theorem State.modMig_moves (s : State) (d : Nat) (f : Migration → Migration) : (s.modMig d f).moves = s.moves := rfl
@[simp] theorem State.modMig_host (s : State) (d : Nat) (f : Migration → Migration) : (s.modMig d f).host = s.host := rfl
@[simp] theorem State.modMig_mem (s : State) (d : Nat) (f : Migration → Migration) : (s.modMig d f).mem = s.mem := rfl
@[simp] theorem State.modMig_full (s : State) (d : Nat) (f : Migration → Migration) : (s.modMig d f).full = s.full := rfl
@[simp] theorem State.modMig_bad (s : State) (d : Nat) (f : Migration → Migration) : (s.modMig d f).bad = s.bad := rfl
@[simp] theorem State.modMig_coded (s : State) (d : Nat) (f : Migration → Migration) : (s.modMig d f).coded = s.coded := rfl
@[simp] theorem State.modMig_nodes (s : State) (d : Nat) (f : Migration → Migration) : (s.modMig d f).nodes = s.nodes := rfl
@[simp] theorem State.modMig_wb (s : State) (d : Nat) (f : Migration → Migration) : (s.modMig d f).wb = s.wb := rfl
@[simp] theorem State.modMig_commitNo (s : State) (d : Nat) (f : Migration → Migration) : (s.modMig d f).commitNo = s.commitNo := rfl
@[simp] theorem State.modMig_grant (s : State) (d : Nat) (f : Migration → Migration) : (s.modMig d f).grant = s.grant := rfl
@[simp] theorem State.modMig_grantAt (s : State) (d : Nat) (f : Migration → Migration) : (s.modMig d f).grantAt = s.grantAt := rfl
@[simp] theorem State.modMig_served (s : State) (d : Nat) (f : Migration → Migration) : (s.modMig d f).served = s.served := rfl
@[simp] theorem State.modMig_serving (s : State) (d : Nat) (f : Migration → Migration) : (s.modMig d f).serving = s.serving := rfl
@[simp] theorem State.modMig_soloTile (s : State) (d : Nat) (f : Migration → Migration) : (s.modMig d f).soloTile = s.soloTile := rfl
@[simp] theorem State.modMig_soloQueue (s : State) (d : Nat) (f : Migration → Migration) : (s.modMig d f).soloQueue = s.soloQueue := rfl
@[simp] theorem State.modMig_far (s : State) (d : Nat) (f : Migration → Migration) : (s.modMig d f).far = s.far := rfl
@[simp] theorem State.modMig_arrivals (s : State) (d : Nat) (f : Migration → Migration) : (s.modMig d f).arrivals = s.arrivals := rfl
@[simp] theorem State.modMig_poison (s : State) (d : Nat) (f : Migration → Migration) : (s.modMig d f).poison = s.poison := rfl
@[simp] theorem State.modMig_povf (s : State) (d : Nat) (f : Migration → Migration) : (s.modMig d f).povf = s.povf := rfl
@[simp] theorem State.modMig_rrCtx (s : State) (d : Nat) (f : Migration → Migration) : (s.modMig d f).rrCtx = s.rrCtx := rfl
@[simp] theorem State.modMig_rrQueue (s : State) (d : Nat) (f : Migration → Migration) : (s.modMig d f).rrQueue = s.rrQueue := rfl
@[simp] theorem State.modMig_pinMoves (s : State) (d : Nat) (f : Migration → Migration) : (s.modMig d f).pinMoves = s.pinMoves := rfl
@[simp] theorem State.modMig_pinned (s : State) (d : Nat) (f : Migration → Migration) : (s.modMig d f).pinned = s.pinned := rfl
@[simp] theorem State.modMig_shrinks (s : State) (d : Nat) (f : Migration → Migration) : (s.modMig d f).shrinks = s.shrinks := rfl
@[simp] theorem State.modMig_stopped (s : State) (d : Nat) (f : Migration → Migration) : (s.modMig d f).stopped = s.stopped := rfl
@[simp] theorem State.modMig_pulled (s : State) (d : Nat) (f : Migration → Migration) : (s.modMig d f).pulled = s.pulled := rfl
@[simp] theorem State.modMig_needs (s : State) (d : Nat) (f : Migration → Migration) : (s.modMig d f).needs = s.needs := rfl
@[simp] theorem State.modMig_posts (s : State) (d : Nat) (f : Migration → Migration) : (s.modMig d f).posts = s.posts := rfl
@[simp] theorem State.modMig_stalled (s : State) (d : Nat) (f : Migration → Migration) : (s.modMig d f).stalled = s.stalled := rfl
@[simp] theorem State.modMig_scrubs (s : State) (d : Nat) (f : Migration → Migration) : (s.modMig d f).scrubs = s.scrubs := rfl
@[simp] theorem State.modMig_parkOrder (s : State) (d : Nat) (f : Migration → Migration) : (s.modMig d f).parkOrder = s.parkOrder := rfl
@[simp] theorem State.modMig_free (s : State) (d : Nat) (f : Migration → Migration) : (s.modMig d f).free = s.free := rfl
@[simp] theorem State.modMig_inputs (s : State) (d : Nat) (f : Migration → Migration) : (s.modMig d f).inputs = s.inputs := rfl

/-! ### A change of the host die -/

@[simp] theorem State.modHost_now (s : State) (f : HostDie → HostDie) : (s.modHost f).now = s.now := rfl
@[simp] theorem State.modHost_tileId (s : State) (f : HostDie → HostDie) : (s.modHost f).tileId = s.tileId := rfl
@[simp] theorem State.modHost_tile (s : State) (f : HostDie → HostDie) : (s.modHost f).tile = s.tile := rfl
@[simp] theorem State.modHost_others (s : State) (f : HostDie → HostDie) : (s.modHost f).others = s.others := rfl
@[simp] theorem State.modHost_turn (s : State) (f : HostDie → HostDie) : (s.modHost f).turn = s.turn := rfl
@[simp] theorem State.modHost_moves (s : State) (f : HostDie → HostDie) : (s.modHost f).moves = s.moves := rfl
@[simp] theorem State.modHost_dies (s : State) (f : HostDie → HostDie) : (s.modHost f).dies = s.dies := rfl
@[simp] theorem State.modHost_host (s : State) (f : HostDie → HostDie) : (s.modHost f).host = f s.host := rfl
@[simp] theorem State.modHost_mem (s : State) (f : HostDie → HostDie) : (s.modHost f).mem = s.mem := rfl
@[simp] theorem State.modHost_full (s : State) (f : HostDie → HostDie) : (s.modHost f).full = s.full := rfl
@[simp] theorem State.modHost_bad (s : State) (f : HostDie → HostDie) : (s.modHost f).bad = s.bad := rfl
@[simp] theorem State.modHost_coded (s : State) (f : HostDie → HostDie) : (s.modHost f).coded = s.coded := rfl
@[simp] theorem State.modHost_nodes (s : State) (f : HostDie → HostDie) : (s.modHost f).nodes = s.nodes := rfl
@[simp] theorem State.modHost_wb (s : State) (f : HostDie → HostDie) : (s.modHost f).wb = s.wb := rfl
@[simp] theorem State.modHost_commitNo (s : State) (f : HostDie → HostDie) : (s.modHost f).commitNo = s.commitNo := rfl
@[simp] theorem State.modHost_grant (s : State) (f : HostDie → HostDie) : (s.modHost f).grant = s.grant := rfl
@[simp] theorem State.modHost_grantAt (s : State) (f : HostDie → HostDie) : (s.modHost f).grantAt = s.grantAt := rfl
@[simp] theorem State.modHost_served (s : State) (f : HostDie → HostDie) : (s.modHost f).served = s.served := rfl
@[simp] theorem State.modHost_serving (s : State) (f : HostDie → HostDie) : (s.modHost f).serving = s.serving := rfl
@[simp] theorem State.modHost_soloTile (s : State) (f : HostDie → HostDie) : (s.modHost f).soloTile = s.soloTile := rfl
@[simp] theorem State.modHost_soloQueue (s : State) (f : HostDie → HostDie) : (s.modHost f).soloQueue = s.soloQueue := rfl
@[simp] theorem State.modHost_far (s : State) (f : HostDie → HostDie) : (s.modHost f).far = s.far := rfl
@[simp] theorem State.modHost_arrivals (s : State) (f : HostDie → HostDie) : (s.modHost f).arrivals = s.arrivals := rfl
@[simp] theorem State.modHost_poison (s : State) (f : HostDie → HostDie) : (s.modHost f).poison = s.poison := rfl
@[simp] theorem State.modHost_povf (s : State) (f : HostDie → HostDie) : (s.modHost f).povf = s.povf := rfl
@[simp] theorem State.modHost_rrCtx (s : State) (f : HostDie → HostDie) : (s.modHost f).rrCtx = s.rrCtx := rfl
@[simp] theorem State.modHost_rrQueue (s : State) (f : HostDie → HostDie) : (s.modHost f).rrQueue = s.rrQueue := rfl
@[simp] theorem State.modHost_pinMoves (s : State) (f : HostDie → HostDie) : (s.modHost f).pinMoves = s.pinMoves := rfl
@[simp] theorem State.modHost_pinned (s : State) (f : HostDie → HostDie) : (s.modHost f).pinned = s.pinned := rfl
@[simp] theorem State.modHost_shrinks (s : State) (f : HostDie → HostDie) : (s.modHost f).shrinks = s.shrinks := rfl
@[simp] theorem State.modHost_stopped (s : State) (f : HostDie → HostDie) : (s.modHost f).stopped = s.stopped := rfl
@[simp] theorem State.modHost_pulled (s : State) (f : HostDie → HostDie) : (s.modHost f).pulled = s.pulled := rfl
@[simp] theorem State.modHost_needs (s : State) (f : HostDie → HostDie) : (s.modHost f).needs = s.needs := rfl
@[simp] theorem State.modHost_posts (s : State) (f : HostDie → HostDie) : (s.modHost f).posts = s.posts := rfl
@[simp] theorem State.modHost_stalled (s : State) (f : HostDie → HostDie) : (s.modHost f).stalled = s.stalled := rfl
@[simp] theorem State.modHost_scrubs (s : State) (f : HostDie → HostDie) : (s.modHost f).scrubs = s.scrubs := rfl
@[simp] theorem State.modHost_parkOrder (s : State) (f : HostDie → HostDie) : (s.modHost f).parkOrder = s.parkOrder := rfl
@[simp] theorem State.modHost_free (s : State) (f : HostDie → HostDie) : (s.modHost f).free = s.free := rfl
@[simp] theorem State.modHost_inputs (s : State) (f : HostDie → HostDie) : (s.modHost f).inputs = s.inputs := rfl

/-! ### A free value is taken -/

@[simp] theorem State.tick_now (s : State) : s.tick.now = s.now := rfl
@[simp] theorem State.tick_tileId (s : State) : s.tick.tileId = s.tileId := rfl
@[simp] theorem State.tick_tile (s : State) : s.tick.tile = s.tile := rfl
@[simp] theorem State.tick_others (s : State) : s.tick.others = s.others := rfl
@[simp] theorem State.tick_turn (s : State) : s.tick.turn = s.turn := rfl
@[simp] theorem State.tick_moves (s : State) : s.tick.moves = s.moves := rfl
@[simp] theorem State.tick_dies (s : State) : s.tick.dies = s.dies := rfl
@[simp] theorem State.tick_host (s : State) : s.tick.host = s.host := rfl
@[simp] theorem State.tick_mem (s : State) : s.tick.mem = s.mem := rfl
@[simp] theorem State.tick_full (s : State) : s.tick.full = s.full := rfl
@[simp] theorem State.tick_bad (s : State) : s.tick.bad = s.bad := rfl
@[simp] theorem State.tick_coded (s : State) : s.tick.coded = s.coded := rfl
@[simp] theorem State.tick_nodes (s : State) : s.tick.nodes = s.nodes := rfl
@[simp] theorem State.tick_wb (s : State) : s.tick.wb = s.wb := rfl
@[simp] theorem State.tick_commitNo (s : State) : s.tick.commitNo = s.commitNo := rfl
@[simp] theorem State.tick_grant (s : State) : s.tick.grant = s.grant := rfl
@[simp] theorem State.tick_grantAt (s : State) : s.tick.grantAt = s.grantAt := rfl
@[simp] theorem State.tick_served (s : State) : s.tick.served = s.served := rfl
@[simp] theorem State.tick_serving (s : State) : s.tick.serving = s.serving := rfl
@[simp] theorem State.tick_soloTile (s : State) : s.tick.soloTile = s.soloTile := rfl
@[simp] theorem State.tick_soloQueue (s : State) : s.tick.soloQueue = s.soloQueue := rfl
@[simp] theorem State.tick_far (s : State) : s.tick.far = s.far := rfl
@[simp] theorem State.tick_arrivals (s : State) : s.tick.arrivals = s.arrivals := rfl
@[simp] theorem State.tick_poison (s : State) : s.tick.poison = s.poison := rfl
@[simp] theorem State.tick_povf (s : State) : s.tick.povf = s.povf := rfl
@[simp] theorem State.tick_rrCtx (s : State) : s.tick.rrCtx = s.rrCtx := rfl
@[simp] theorem State.tick_rrQueue (s : State) : s.tick.rrQueue = s.rrQueue := rfl
@[simp] theorem State.tick_pinMoves (s : State) : s.tick.pinMoves = s.pinMoves := rfl
@[simp] theorem State.tick_pinned (s : State) : s.tick.pinned = s.pinned := rfl
@[simp] theorem State.tick_shrinks (s : State) : s.tick.shrinks = s.shrinks := rfl
@[simp] theorem State.tick_stopped (s : State) : s.tick.stopped = s.stopped := rfl
@[simp] theorem State.tick_pulled (s : State) : s.tick.pulled = s.pulled := rfl
@[simp] theorem State.tick_needs (s : State) : s.tick.needs = s.needs := rfl
@[simp] theorem State.tick_posts (s : State) : s.tick.posts = s.posts := rfl
@[simp] theorem State.tick_stalled (s : State) : s.tick.stalled = s.stalled := rfl
@[simp] theorem State.tick_scrubs (s : State) : s.tick.scrubs = s.scrubs := rfl
@[simp] theorem State.tick_parkOrder (s : State) : s.tick.parkOrder = s.parkOrder := rfl
@[simp] theorem State.tick_free (s : State) : s.tick.free = s.free + 1 := rfl
@[simp] theorem State.tick_inputs (s : State) : s.tick.inputs = s.inputs := rfl

/-! ### A full bit -/

@[simp] theorem State.setFull_now (s : State) (a : Nat) (b : Bool) : (s.setFull a b).now = s.now := rfl
@[simp] theorem State.setFull_tileId (s : State) (a : Nat) (b : Bool) : (s.setFull a b).tileId = s.tileId := rfl
@[simp] theorem State.setFull_tile (s : State) (a : Nat) (b : Bool) : (s.setFull a b).tile = s.tile := rfl
@[simp] theorem State.setFull_others (s : State) (a : Nat) (b : Bool) : (s.setFull a b).others = s.others := rfl
@[simp] theorem State.setFull_turn (s : State) (a : Nat) (b : Bool) : (s.setFull a b).turn = s.turn := rfl
@[simp] theorem State.setFull_moves (s : State) (a : Nat) (b : Bool) : (s.setFull a b).moves = s.moves := rfl
@[simp] theorem State.setFull_dies (s : State) (a : Nat) (b : Bool) : (s.setFull a b).dies = s.dies := rfl
@[simp] theorem State.setFull_host (s : State) (a : Nat) (b : Bool) : (s.setFull a b).host = s.host := rfl
@[simp] theorem State.setFull_mem (s : State) (a : Nat) (b : Bool) : (s.setFull a b).mem = s.mem := rfl
@[simp] theorem State.setFull_bad (s : State) (a : Nat) (b : Bool) : (s.setFull a b).bad = s.bad := rfl
@[simp] theorem State.setFull_coded (s : State) (a : Nat) (b : Bool) : (s.setFull a b).coded = s.coded := rfl
@[simp] theorem State.setFull_nodes (s : State) (a : Nat) (b : Bool) : (s.setFull a b).nodes = s.nodes := rfl
@[simp] theorem State.setFull_wb (s : State) (a : Nat) (b : Bool) : (s.setFull a b).wb = s.wb := rfl
@[simp] theorem State.setFull_commitNo (s : State) (a : Nat) (b : Bool) : (s.setFull a b).commitNo = s.commitNo := rfl
@[simp] theorem State.setFull_grant (s : State) (a : Nat) (b : Bool) : (s.setFull a b).grant = s.grant := rfl
@[simp] theorem State.setFull_grantAt (s : State) (a : Nat) (b : Bool) : (s.setFull a b).grantAt = s.grantAt := rfl
@[simp] theorem State.setFull_served (s : State) (a : Nat) (b : Bool) : (s.setFull a b).served = s.served := rfl
@[simp] theorem State.setFull_serving (s : State) (a : Nat) (b : Bool) : (s.setFull a b).serving = s.serving := rfl
@[simp] theorem State.setFull_soloTile (s : State) (a : Nat) (b : Bool) : (s.setFull a b).soloTile = s.soloTile := rfl
@[simp] theorem State.setFull_soloQueue (s : State) (a : Nat) (b : Bool) : (s.setFull a b).soloQueue = s.soloQueue := rfl
@[simp] theorem State.setFull_far (s : State) (a : Nat) (b : Bool) : (s.setFull a b).far = s.far := rfl
@[simp] theorem State.setFull_arrivals (s : State) (a : Nat) (b : Bool) : (s.setFull a b).arrivals = s.arrivals := rfl
@[simp] theorem State.setFull_poison (s : State) (a : Nat) (b : Bool) : (s.setFull a b).poison = s.poison := rfl
@[simp] theorem State.setFull_povf (s : State) (a : Nat) (b : Bool) : (s.setFull a b).povf = s.povf := rfl
@[simp] theorem State.setFull_rrCtx (s : State) (a : Nat) (b : Bool) : (s.setFull a b).rrCtx = s.rrCtx := rfl
@[simp] theorem State.setFull_rrQueue (s : State) (a : Nat) (b : Bool) : (s.setFull a b).rrQueue = s.rrQueue := rfl
@[simp] theorem State.setFull_pinMoves (s : State) (a : Nat) (b : Bool) : (s.setFull a b).pinMoves = s.pinMoves := rfl
@[simp] theorem State.setFull_pinned (s : State) (a : Nat) (b : Bool) : (s.setFull a b).pinned = s.pinned := rfl
@[simp] theorem State.setFull_shrinks (s : State) (a : Nat) (b : Bool) : (s.setFull a b).shrinks = s.shrinks := rfl
@[simp] theorem State.setFull_stopped (s : State) (a : Nat) (b : Bool) : (s.setFull a b).stopped = s.stopped := rfl
@[simp] theorem State.setFull_pulled (s : State) (a : Nat) (b : Bool) : (s.setFull a b).pulled = s.pulled := rfl
@[simp] theorem State.setFull_needs (s : State) (a : Nat) (b : Bool) : (s.setFull a b).needs = s.needs := rfl
@[simp] theorem State.setFull_posts (s : State) (a : Nat) (b : Bool) : (s.setFull a b).posts = s.posts := rfl
@[simp] theorem State.setFull_stalled (s : State) (a : Nat) (b : Bool) : (s.setFull a b).stalled = s.stalled := rfl
@[simp] theorem State.setFull_scrubs (s : State) (a : Nat) (b : Bool) : (s.setFull a b).scrubs = s.scrubs := rfl
@[simp] theorem State.setFull_parkOrder (s : State) (a : Nat) (b : Bool) : (s.setFull a b).parkOrder = s.parkOrder := rfl
@[simp] theorem State.setFull_free (s : State) (a : Nat) (b : Bool) : (s.setFull a b).free = s.free := rfl
@[simp] theorem State.setFull_inputs (s : State) (a : Nat) (b : Bool) : (s.setFull a b).inputs = s.inputs := rfl

/-! ### A write at the home -/

@[simp] theorem State.homeWrite_now (s : State) (a : Nat) (l : List Byte) : (s.homeWrite a l).now = s.now := rfl
@[simp] theorem State.homeWrite_tileId (s : State) (a : Nat) (l : List Byte) : (s.homeWrite a l).tileId = s.tileId := rfl
@[simp] theorem State.homeWrite_tile (s : State) (a : Nat) (l : List Byte) : (s.homeWrite a l).tile = s.tile := rfl
@[simp] theorem State.homeWrite_others (s : State) (a : Nat) (l : List Byte) : (s.homeWrite a l).others = s.others := rfl
@[simp] theorem State.homeWrite_turn (s : State) (a : Nat) (l : List Byte) : (s.homeWrite a l).turn = s.turn := rfl
@[simp] theorem State.homeWrite_moves (s : State) (a : Nat) (l : List Byte) : (s.homeWrite a l).moves = s.moves := rfl
@[simp] theorem State.homeWrite_dies (s : State) (a : Nat) (l : List Byte) : (s.homeWrite a l).dies = s.dies := rfl
@[simp] theorem State.homeWrite_host (s : State) (a : Nat) (l : List Byte) : (s.homeWrite a l).host = s.host := rfl
@[simp] theorem State.homeWrite_mem (s : State) (a : Nat) (l : List Byte) : (s.homeWrite a l).mem = Memory.write s.mem a l := rfl
@[simp] theorem State.homeWrite_full (s : State) (a : Nat) (l : List Byte) : (s.homeWrite a l).full = s.full := rfl
@[simp] theorem State.homeWrite_nodes (s : State) (a : Nat) (l : List Byte) : (s.homeWrite a l).nodes = s.nodes := rfl
@[simp] theorem State.homeWrite_commitNo (s : State) (a : Nat) (l : List Byte) : (s.homeWrite a l).commitNo = s.commitNo := rfl
@[simp] theorem State.homeWrite_grant (s : State) (a : Nat) (l : List Byte) : (s.homeWrite a l).grant = s.grant := rfl
@[simp] theorem State.homeWrite_grantAt (s : State) (a : Nat) (l : List Byte) : (s.homeWrite a l).grantAt = s.grantAt := rfl
@[simp] theorem State.homeWrite_served (s : State) (a : Nat) (l : List Byte) : (s.homeWrite a l).served = s.served := rfl
@[simp] theorem State.homeWrite_serving (s : State) (a : Nat) (l : List Byte) : (s.homeWrite a l).serving = s.serving := rfl
@[simp] theorem State.homeWrite_soloTile (s : State) (a : Nat) (l : List Byte) : (s.homeWrite a l).soloTile = s.soloTile := rfl
@[simp] theorem State.homeWrite_soloQueue (s : State) (a : Nat) (l : List Byte) : (s.homeWrite a l).soloQueue = s.soloQueue := rfl
@[simp] theorem State.homeWrite_far (s : State) (a : Nat) (l : List Byte) : (s.homeWrite a l).far = s.far := rfl
@[simp] theorem State.homeWrite_arrivals (s : State) (a : Nat) (l : List Byte) : (s.homeWrite a l).arrivals = s.arrivals := rfl
@[simp] theorem State.homeWrite_poison (s : State) (a : Nat) (l : List Byte) : (s.homeWrite a l).poison = s.poison := rfl
@[simp] theorem State.homeWrite_povf (s : State) (a : Nat) (l : List Byte) : (s.homeWrite a l).povf = s.povf := rfl
@[simp] theorem State.homeWrite_rrCtx (s : State) (a : Nat) (l : List Byte) : (s.homeWrite a l).rrCtx = s.rrCtx := rfl
@[simp] theorem State.homeWrite_rrQueue (s : State) (a : Nat) (l : List Byte) : (s.homeWrite a l).rrQueue = s.rrQueue := rfl
@[simp] theorem State.homeWrite_pinMoves (s : State) (a : Nat) (l : List Byte) : (s.homeWrite a l).pinMoves = s.pinMoves := rfl
@[simp] theorem State.homeWrite_pinned (s : State) (a : Nat) (l : List Byte) : (s.homeWrite a l).pinned = s.pinned := rfl
@[simp] theorem State.homeWrite_shrinks (s : State) (a : Nat) (l : List Byte) : (s.homeWrite a l).shrinks = s.shrinks := rfl
@[simp] theorem State.homeWrite_stopped (s : State) (a : Nat) (l : List Byte) : (s.homeWrite a l).stopped = s.stopped := rfl
@[simp] theorem State.homeWrite_pulled (s : State) (a : Nat) (l : List Byte) : (s.homeWrite a l).pulled = s.pulled := rfl
@[simp] theorem State.homeWrite_needs (s : State) (a : Nat) (l : List Byte) : (s.homeWrite a l).needs = s.needs := rfl
@[simp] theorem State.homeWrite_posts (s : State) (a : Nat) (l : List Byte) : (s.homeWrite a l).posts = s.posts := rfl
@[simp] theorem State.homeWrite_stalled (s : State) (a : Nat) (l : List Byte) : (s.homeWrite a l).stalled = s.stalled := rfl
@[simp] theorem State.homeWrite_scrubs (s : State) (a : Nat) (l : List Byte) : (s.homeWrite a l).scrubs = s.scrubs := rfl
@[simp] theorem State.homeWrite_parkOrder (s : State) (a : Nat) (l : List Byte) : (s.homeWrite a l).parkOrder = s.parkOrder := rfl
@[simp] theorem State.homeWrite_free (s : State) (a : Nat) (l : List Byte) : (s.homeWrite a l).free = s.free := rfl
@[simp] theorem State.homeWrite_inputs (s : State) (a : Nat) (l : List Byte) : (s.homeWrite a l).inputs = s.inputs := rfl

/-! ### A word written at the home -/

@[simp] theorem State.homeWrite64_now (s : State) (a : Nat) (v : Word) : (s.homeWrite64 a v).now = s.now := rfl
@[simp] theorem State.homeWrite64_tileId (s : State) (a : Nat) (v : Word) : (s.homeWrite64 a v).tileId = s.tileId := rfl
@[simp] theorem State.homeWrite64_tile (s : State) (a : Nat) (v : Word) : (s.homeWrite64 a v).tile = s.tile := rfl
@[simp] theorem State.homeWrite64_others (s : State) (a : Nat) (v : Word) : (s.homeWrite64 a v).others = s.others := rfl
@[simp] theorem State.homeWrite64_turn (s : State) (a : Nat) (v : Word) : (s.homeWrite64 a v).turn = s.turn := rfl
@[simp] theorem State.homeWrite64_moves (s : State) (a : Nat) (v : Word) : (s.homeWrite64 a v).moves = s.moves := rfl
@[simp] theorem State.homeWrite64_dies (s : State) (a : Nat) (v : Word) : (s.homeWrite64 a v).dies = s.dies := rfl
@[simp] theorem State.homeWrite64_host (s : State) (a : Nat) (v : Word) : (s.homeWrite64 a v).host = s.host := rfl
@[simp] theorem State.homeWrite64_mem (s : State) (a : Nat) (v : Word) : (s.homeWrite64 a v).mem = Memory.write s.mem a (toBytes 8 v.toNat) := rfl
@[simp] theorem State.homeWrite64_full (s : State) (a : Nat) (v : Word) : (s.homeWrite64 a v).full = s.full := rfl
@[simp] theorem State.homeWrite64_nodes (s : State) (a : Nat) (v : Word) : (s.homeWrite64 a v).nodes = s.nodes := rfl
@[simp] theorem State.homeWrite64_commitNo (s : State) (a : Nat) (v : Word) : (s.homeWrite64 a v).commitNo = s.commitNo := rfl
@[simp] theorem State.homeWrite64_grant (s : State) (a : Nat) (v : Word) : (s.homeWrite64 a v).grant = s.grant := rfl
@[simp] theorem State.homeWrite64_grantAt (s : State) (a : Nat) (v : Word) : (s.homeWrite64 a v).grantAt = s.grantAt := rfl
@[simp] theorem State.homeWrite64_served (s : State) (a : Nat) (v : Word) : (s.homeWrite64 a v).served = s.served := rfl
@[simp] theorem State.homeWrite64_serving (s : State) (a : Nat) (v : Word) : (s.homeWrite64 a v).serving = s.serving := rfl
@[simp] theorem State.homeWrite64_soloTile (s : State) (a : Nat) (v : Word) : (s.homeWrite64 a v).soloTile = s.soloTile := rfl
@[simp] theorem State.homeWrite64_soloQueue (s : State) (a : Nat) (v : Word) : (s.homeWrite64 a v).soloQueue = s.soloQueue := rfl
@[simp] theorem State.homeWrite64_far (s : State) (a : Nat) (v : Word) : (s.homeWrite64 a v).far = s.far := rfl
@[simp] theorem State.homeWrite64_arrivals (s : State) (a : Nat) (v : Word) : (s.homeWrite64 a v).arrivals = s.arrivals := rfl
@[simp] theorem State.homeWrite64_poison (s : State) (a : Nat) (v : Word) : (s.homeWrite64 a v).poison = s.poison := rfl
@[simp] theorem State.homeWrite64_povf (s : State) (a : Nat) (v : Word) : (s.homeWrite64 a v).povf = s.povf := rfl
@[simp] theorem State.homeWrite64_rrCtx (s : State) (a : Nat) (v : Word) : (s.homeWrite64 a v).rrCtx = s.rrCtx := rfl
@[simp] theorem State.homeWrite64_rrQueue (s : State) (a : Nat) (v : Word) : (s.homeWrite64 a v).rrQueue = s.rrQueue := rfl
@[simp] theorem State.homeWrite64_pinMoves (s : State) (a : Nat) (v : Word) : (s.homeWrite64 a v).pinMoves = s.pinMoves := rfl
@[simp] theorem State.homeWrite64_pinned (s : State) (a : Nat) (v : Word) : (s.homeWrite64 a v).pinned = s.pinned := rfl
@[simp] theorem State.homeWrite64_shrinks (s : State) (a : Nat) (v : Word) : (s.homeWrite64 a v).shrinks = s.shrinks := rfl
@[simp] theorem State.homeWrite64_stopped (s : State) (a : Nat) (v : Word) : (s.homeWrite64 a v).stopped = s.stopped := rfl
@[simp] theorem State.homeWrite64_pulled (s : State) (a : Nat) (v : Word) : (s.homeWrite64 a v).pulled = s.pulled := rfl
@[simp] theorem State.homeWrite64_needs (s : State) (a : Nat) (v : Word) : (s.homeWrite64 a v).needs = s.needs := rfl
@[simp] theorem State.homeWrite64_posts (s : State) (a : Nat) (v : Word) : (s.homeWrite64 a v).posts = s.posts := rfl
@[simp] theorem State.homeWrite64_stalled (s : State) (a : Nat) (v : Word) : (s.homeWrite64 a v).stalled = s.stalled := rfl
@[simp] theorem State.homeWrite64_scrubs (s : State) (a : Nat) (v : Word) : (s.homeWrite64 a v).scrubs = s.scrubs := rfl
@[simp] theorem State.homeWrite64_parkOrder (s : State) (a : Nat) (v : Word) : (s.homeWrite64 a v).parkOrder = s.parkOrder := rfl
@[simp] theorem State.homeWrite64_free (s : State) (a : Nat) (v : Word) : (s.homeWrite64 a v).free = s.free := rfl
@[simp] theorem State.homeWrite64_inputs (s : State) (a : Nat) (v : Word) : (s.homeWrite64 a v).inputs = s.inputs := rfl

/-! ### A tile is set -/

@[simp] theorem State.setTile_now (s : State) (t : Nat) (x : Tile) : (s.setTile t x).now = s.now := by unfold State.setTile; split <;> rfl
@[simp] theorem State.setTile_tileId (s : State) (t : Nat) (x : Tile) : (s.setTile t x).tileId = s.tileId := by unfold State.setTile; split <;> rfl
@[simp] theorem State.setTile_turn (s : State) (t : Nat) (x : Tile) : (s.setTile t x).turn = s.turn := by unfold State.setTile; split <;> rfl
@[simp] theorem State.setTile_moves (s : State) (t : Nat) (x : Tile) : (s.setTile t x).moves = s.moves := by unfold State.setTile; split <;> rfl
@[simp] theorem State.setTile_dies (s : State) (t : Nat) (x : Tile) : (s.setTile t x).dies = s.dies := by unfold State.setTile; split <;> rfl
@[simp] theorem State.setTile_host (s : State) (t : Nat) (x : Tile) : (s.setTile t x).host = s.host := by unfold State.setTile; split <;> rfl
@[simp] theorem State.setTile_mem (s : State) (t : Nat) (x : Tile) : (s.setTile t x).mem = s.mem := by unfold State.setTile; split <;> rfl
@[simp] theorem State.setTile_full (s : State) (t : Nat) (x : Tile) : (s.setTile t x).full = s.full := by unfold State.setTile; split <;> rfl
@[simp] theorem State.setTile_bad (s : State) (t : Nat) (x : Tile) : (s.setTile t x).bad = s.bad := by unfold State.setTile; split <;> rfl
@[simp] theorem State.setTile_coded (s : State) (t : Nat) (x : Tile) : (s.setTile t x).coded = s.coded := by unfold State.setTile; split <;> rfl
@[simp] theorem State.setTile_nodes (s : State) (t : Nat) (x : Tile) : (s.setTile t x).nodes = s.nodes := by unfold State.setTile; split <;> rfl
@[simp] theorem State.setTile_wb (s : State) (t : Nat) (x : Tile) : (s.setTile t x).wb = s.wb := by unfold State.setTile; split <;> rfl
@[simp] theorem State.setTile_commitNo (s : State) (t : Nat) (x : Tile) : (s.setTile t x).commitNo = s.commitNo := by unfold State.setTile; split <;> rfl
@[simp] theorem State.setTile_grant (s : State) (t : Nat) (x : Tile) : (s.setTile t x).grant = s.grant := by unfold State.setTile; split <;> rfl
@[simp] theorem State.setTile_grantAt (s : State) (t : Nat) (x : Tile) : (s.setTile t x).grantAt = s.grantAt := by unfold State.setTile; split <;> rfl
@[simp] theorem State.setTile_served (s : State) (t : Nat) (x : Tile) : (s.setTile t x).served = s.served := by unfold State.setTile; split <;> rfl
@[simp] theorem State.setTile_serving (s : State) (t : Nat) (x : Tile) : (s.setTile t x).serving = s.serving := by unfold State.setTile; split <;> rfl
@[simp] theorem State.setTile_soloTile (s : State) (t : Nat) (x : Tile) : (s.setTile t x).soloTile = s.soloTile := by unfold State.setTile; split <;> rfl
@[simp] theorem State.setTile_soloQueue (s : State) (t : Nat) (x : Tile) : (s.setTile t x).soloQueue = s.soloQueue := by unfold State.setTile; split <;> rfl
@[simp] theorem State.setTile_far (s : State) (t : Nat) (x : Tile) : (s.setTile t x).far = s.far := by unfold State.setTile; split <;> rfl
@[simp] theorem State.setTile_arrivals (s : State) (t : Nat) (x : Tile) : (s.setTile t x).arrivals = s.arrivals := by unfold State.setTile; split <;> rfl
@[simp] theorem State.setTile_poison (s : State) (t : Nat) (x : Tile) : (s.setTile t x).poison = s.poison := by unfold State.setTile; split <;> rfl
@[simp] theorem State.setTile_povf (s : State) (t : Nat) (x : Tile) : (s.setTile t x).povf = s.povf := by unfold State.setTile; split <;> rfl
@[simp] theorem State.setTile_rrCtx (s : State) (t : Nat) (x : Tile) : (s.setTile t x).rrCtx = s.rrCtx := by unfold State.setTile; split <;> rfl
@[simp] theorem State.setTile_rrQueue (s : State) (t : Nat) (x : Tile) : (s.setTile t x).rrQueue = s.rrQueue := by unfold State.setTile; split <;> rfl
@[simp] theorem State.setTile_pinMoves (s : State) (t : Nat) (x : Tile) : (s.setTile t x).pinMoves = s.pinMoves := by unfold State.setTile; split <;> rfl
@[simp] theorem State.setTile_pinned (s : State) (t : Nat) (x : Tile) : (s.setTile t x).pinned = s.pinned := by unfold State.setTile; split <;> rfl
@[simp] theorem State.setTile_shrinks (s : State) (t : Nat) (x : Tile) : (s.setTile t x).shrinks = s.shrinks := by unfold State.setTile; split <;> rfl
@[simp] theorem State.setTile_stopped (s : State) (t : Nat) (x : Tile) : (s.setTile t x).stopped = s.stopped := by unfold State.setTile; split <;> rfl
@[simp] theorem State.setTile_pulled (s : State) (t : Nat) (x : Tile) : (s.setTile t x).pulled = s.pulled := by unfold State.setTile; split <;> rfl
@[simp] theorem State.setTile_needs (s : State) (t : Nat) (x : Tile) : (s.setTile t x).needs = s.needs := by unfold State.setTile; split <;> rfl
@[simp] theorem State.setTile_posts (s : State) (t : Nat) (x : Tile) : (s.setTile t x).posts = s.posts := by unfold State.setTile; split <;> rfl
@[simp] theorem State.setTile_stalled (s : State) (t : Nat) (x : Tile) : (s.setTile t x).stalled = s.stalled := by unfold State.setTile; split <;> rfl
@[simp] theorem State.setTile_scrubs (s : State) (t : Nat) (x : Tile) : (s.setTile t x).scrubs = s.scrubs := by unfold State.setTile; split <;> rfl
@[simp] theorem State.setTile_parkOrder (s : State) (t : Nat) (x : Tile) : (s.setTile t x).parkOrder = s.parkOrder := by unfold State.setTile; split <;> rfl
@[simp] theorem State.setTile_free (s : State) (t : Nat) (x : Tile) : (s.setTile t x).free = s.free := by unfold State.setTile; split <;> rfl
@[simp] theorem State.setTile_inputs (s : State) (t : Nat) (x : Tile) : (s.setTile t x).inputs = s.inputs := by unfold State.setTile; split <;> rfl

/-! ### A change of a tile -/

@[simp] theorem State.modTile_now (s : State) (t : Nat) (f : Tile → Tile) : (s.modTile t f).now = s.now := State.setTile_now s t _
@[simp] theorem State.modTile_tileId (s : State) (t : Nat) (f : Tile → Tile) : (s.modTile t f).tileId = s.tileId := State.setTile_tileId s t _
@[simp] theorem State.modTile_turn (s : State) (t : Nat) (f : Tile → Tile) : (s.modTile t f).turn = s.turn := State.setTile_turn s t _
@[simp] theorem State.modTile_moves (s : State) (t : Nat) (f : Tile → Tile) : (s.modTile t f).moves = s.moves := State.setTile_moves s t _
@[simp] theorem State.modTile_dies (s : State) (t : Nat) (f : Tile → Tile) : (s.modTile t f).dies = s.dies := State.setTile_dies s t _
@[simp] theorem State.modTile_host (s : State) (t : Nat) (f : Tile → Tile) : (s.modTile t f).host = s.host := State.setTile_host s t _
@[simp] theorem State.modTile_mem (s : State) (t : Nat) (f : Tile → Tile) : (s.modTile t f).mem = s.mem := State.setTile_mem s t _
@[simp] theorem State.modTile_full (s : State) (t : Nat) (f : Tile → Tile) : (s.modTile t f).full = s.full := State.setTile_full s t _
@[simp] theorem State.modTile_bad (s : State) (t : Nat) (f : Tile → Tile) : (s.modTile t f).bad = s.bad := State.setTile_bad s t _
@[simp] theorem State.modTile_coded (s : State) (t : Nat) (f : Tile → Tile) : (s.modTile t f).coded = s.coded := State.setTile_coded s t _
@[simp] theorem State.modTile_nodes (s : State) (t : Nat) (f : Tile → Tile) : (s.modTile t f).nodes = s.nodes := State.setTile_nodes s t _
@[simp] theorem State.modTile_wb (s : State) (t : Nat) (f : Tile → Tile) : (s.modTile t f).wb = s.wb := State.setTile_wb s t _
@[simp] theorem State.modTile_commitNo (s : State) (t : Nat) (f : Tile → Tile) : (s.modTile t f).commitNo = s.commitNo := State.setTile_commitNo s t _
@[simp] theorem State.modTile_grant (s : State) (t : Nat) (f : Tile → Tile) : (s.modTile t f).grant = s.grant := State.setTile_grant s t _
@[simp] theorem State.modTile_grantAt (s : State) (t : Nat) (f : Tile → Tile) : (s.modTile t f).grantAt = s.grantAt := State.setTile_grantAt s t _
@[simp] theorem State.modTile_served (s : State) (t : Nat) (f : Tile → Tile) : (s.modTile t f).served = s.served := State.setTile_served s t _
@[simp] theorem State.modTile_serving (s : State) (t : Nat) (f : Tile → Tile) : (s.modTile t f).serving = s.serving := State.setTile_serving s t _
@[simp] theorem State.modTile_soloTile (s : State) (t : Nat) (f : Tile → Tile) : (s.modTile t f).soloTile = s.soloTile := State.setTile_soloTile s t _
@[simp] theorem State.modTile_soloQueue (s : State) (t : Nat) (f : Tile → Tile) : (s.modTile t f).soloQueue = s.soloQueue := State.setTile_soloQueue s t _
@[simp] theorem State.modTile_far (s : State) (t : Nat) (f : Tile → Tile) : (s.modTile t f).far = s.far := State.setTile_far s t _
@[simp] theorem State.modTile_arrivals (s : State) (t : Nat) (f : Tile → Tile) : (s.modTile t f).arrivals = s.arrivals := State.setTile_arrivals s t _
@[simp] theorem State.modTile_poison (s : State) (t : Nat) (f : Tile → Tile) : (s.modTile t f).poison = s.poison := State.setTile_poison s t _
@[simp] theorem State.modTile_povf (s : State) (t : Nat) (f : Tile → Tile) : (s.modTile t f).povf = s.povf := State.setTile_povf s t _
@[simp] theorem State.modTile_rrCtx (s : State) (t : Nat) (f : Tile → Tile) : (s.modTile t f).rrCtx = s.rrCtx := State.setTile_rrCtx s t _
@[simp] theorem State.modTile_rrQueue (s : State) (t : Nat) (f : Tile → Tile) : (s.modTile t f).rrQueue = s.rrQueue := State.setTile_rrQueue s t _
@[simp] theorem State.modTile_pinMoves (s : State) (t : Nat) (f : Tile → Tile) : (s.modTile t f).pinMoves = s.pinMoves := State.setTile_pinMoves s t _
@[simp] theorem State.modTile_pinned (s : State) (t : Nat) (f : Tile → Tile) : (s.modTile t f).pinned = s.pinned := State.setTile_pinned s t _
@[simp] theorem State.modTile_shrinks (s : State) (t : Nat) (f : Tile → Tile) : (s.modTile t f).shrinks = s.shrinks := State.setTile_shrinks s t _
@[simp] theorem State.modTile_stopped (s : State) (t : Nat) (f : Tile → Tile) : (s.modTile t f).stopped = s.stopped := State.setTile_stopped s t _
@[simp] theorem State.modTile_pulled (s : State) (t : Nat) (f : Tile → Tile) : (s.modTile t f).pulled = s.pulled := State.setTile_pulled s t _
@[simp] theorem State.modTile_needs (s : State) (t : Nat) (f : Tile → Tile) : (s.modTile t f).needs = s.needs := State.setTile_needs s t _
@[simp] theorem State.modTile_posts (s : State) (t : Nat) (f : Tile → Tile) : (s.modTile t f).posts = s.posts := State.setTile_posts s t _
@[simp] theorem State.modTile_stalled (s : State) (t : Nat) (f : Tile → Tile) : (s.modTile t f).stalled = s.stalled := State.setTile_stalled s t _
@[simp] theorem State.modTile_scrubs (s : State) (t : Nat) (f : Tile → Tile) : (s.modTile t f).scrubs = s.scrubs := State.setTile_scrubs s t _
@[simp] theorem State.modTile_parkOrder (s : State) (t : Nat) (f : Tile → Tile) : (s.modTile t f).parkOrder = s.parkOrder := State.setTile_parkOrder s t _
@[simp] theorem State.modTile_free (s : State) (t : Nat) (f : Tile → Tile) : (s.modTile t f).free = s.free := State.setTile_free s t _
@[simp] theorem State.modTile_inputs (s : State) (t : Nat) (f : Tile → Tile) : (s.modTile t f).inputs = s.inputs := State.setTile_inputs s t _

/-! ### Another tile has its turn -/

@[simp] theorem State.focus_now (s : State) (t : Nat) : (s.focus t).now = s.now := by unfold State.focus; split <;> rfl
@[simp] theorem State.focus_turn (s : State) (t : Nat) : (s.focus t).turn = s.turn := by unfold State.focus; split <;> rfl
@[simp] theorem State.focus_moves (s : State) (t : Nat) : (s.focus t).moves = s.moves := by unfold State.focus; split <;> rfl
@[simp] theorem State.focus_dies (s : State) (t : Nat) : (s.focus t).dies = s.dies := by unfold State.focus; split <;> rfl
@[simp] theorem State.focus_host (s : State) (t : Nat) : (s.focus t).host = s.host := by unfold State.focus; split <;> rfl
@[simp] theorem State.focus_mem (s : State) (t : Nat) : (s.focus t).mem = s.mem := by unfold State.focus; split <;> rfl
@[simp] theorem State.focus_full (s : State) (t : Nat) : (s.focus t).full = s.full := by unfold State.focus; split <;> rfl
@[simp] theorem State.focus_bad (s : State) (t : Nat) : (s.focus t).bad = s.bad := by unfold State.focus; split <;> rfl
@[simp] theorem State.focus_coded (s : State) (t : Nat) : (s.focus t).coded = s.coded := by unfold State.focus; split <;> rfl
@[simp] theorem State.focus_nodes (s : State) (t : Nat) : (s.focus t).nodes = s.nodes := by unfold State.focus; split <;> rfl
@[simp] theorem State.focus_wb (s : State) (t : Nat) : (s.focus t).wb = s.wb := by unfold State.focus; split <;> rfl
@[simp] theorem State.focus_commitNo (s : State) (t : Nat) : (s.focus t).commitNo = s.commitNo := by unfold State.focus; split <;> rfl
@[simp] theorem State.focus_grant (s : State) (t : Nat) : (s.focus t).grant = s.grant := by unfold State.focus; split <;> rfl
@[simp] theorem State.focus_grantAt (s : State) (t : Nat) : (s.focus t).grantAt = s.grantAt := by unfold State.focus; split <;> rfl
@[simp] theorem State.focus_served (s : State) (t : Nat) : (s.focus t).served = s.served := by unfold State.focus; split <;> rfl
@[simp] theorem State.focus_serving (s : State) (t : Nat) : (s.focus t).serving = s.serving := by unfold State.focus; split <;> rfl
@[simp] theorem State.focus_soloTile (s : State) (t : Nat) : (s.focus t).soloTile = s.soloTile := by unfold State.focus; split <;> rfl
@[simp] theorem State.focus_soloQueue (s : State) (t : Nat) : (s.focus t).soloQueue = s.soloQueue := by unfold State.focus; split <;> rfl
@[simp] theorem State.focus_far (s : State) (t : Nat) : (s.focus t).far = s.far := by unfold State.focus; split <;> rfl
@[simp] theorem State.focus_arrivals (s : State) (t : Nat) : (s.focus t).arrivals = s.arrivals := by unfold State.focus; split <;> rfl
@[simp] theorem State.focus_poison (s : State) (t : Nat) : (s.focus t).poison = s.poison := by unfold State.focus; split <;> rfl
@[simp] theorem State.focus_povf (s : State) (t : Nat) : (s.focus t).povf = s.povf := by unfold State.focus; split <;> rfl
@[simp] theorem State.focus_rrCtx (s : State) (t : Nat) : (s.focus t).rrCtx = s.rrCtx := by unfold State.focus; split <;> rfl
@[simp] theorem State.focus_rrQueue (s : State) (t : Nat) : (s.focus t).rrQueue = s.rrQueue := by unfold State.focus; split <;> rfl
@[simp] theorem State.focus_pinMoves (s : State) (t : Nat) : (s.focus t).pinMoves = s.pinMoves := by unfold State.focus; split <;> rfl
@[simp] theorem State.focus_pinned (s : State) (t : Nat) : (s.focus t).pinned = s.pinned := by unfold State.focus; split <;> rfl
@[simp] theorem State.focus_shrinks (s : State) (t : Nat) : (s.focus t).shrinks = s.shrinks := by unfold State.focus; split <;> rfl
@[simp] theorem State.focus_stopped (s : State) (t : Nat) : (s.focus t).stopped = s.stopped := by unfold State.focus; split <;> rfl
@[simp] theorem State.focus_pulled (s : State) (t : Nat) : (s.focus t).pulled = s.pulled := by unfold State.focus; split <;> rfl
@[simp] theorem State.focus_needs (s : State) (t : Nat) : (s.focus t).needs = s.needs := by unfold State.focus; split <;> rfl
@[simp] theorem State.focus_posts (s : State) (t : Nat) : (s.focus t).posts = s.posts := by unfold State.focus; split <;> rfl
@[simp] theorem State.focus_stalled (s : State) (t : Nat) : (s.focus t).stalled = s.stalled := by unfold State.focus; split <;> rfl
@[simp] theorem State.focus_scrubs (s : State) (t : Nat) : (s.focus t).scrubs = s.scrubs := by unfold State.focus; split <;> rfl
@[simp] theorem State.focus_parkOrder (s : State) (t : Nat) : (s.focus t).parkOrder = s.parkOrder := by unfold State.focus; split <;> rfl
@[simp] theorem State.focus_free (s : State) (t : Nat) : (s.focus t).free = s.free := by unfold State.focus; split <;> rfl
@[simp] theorem State.focus_inputs (s : State) (t : Nat) : (s.focus t).inputs = s.inputs := by unfold State.focus; split <;> rfl

/-! ### Tiles and dies after a change -/

/-- The tile that is set, and no other. -/
theorem State.tileAt_setTile {s : State} (h : Assoc.wf Tile.idle s.others = true) (t u : Nat) (x : Tile) :
    (s.setTile t x).tileAt u = if u = t then x else s.tileAt u := by
  unfold State.setTile
  by_cases e : t = s.tileId
  · rw [if_pos e]
    subst e
    unfold State.tileAt
    by_cases g : u = s.tileId
    · rw [if_pos g, if_pos g]
    · rw [if_neg g, if_neg g, if_neg g]
  · rw [if_neg e]
    unfold State.tileAt
    dsimp only
    by_cases g : u = s.tileId
    · rw [if_pos g, if_neg (fun k : u = t => e (k.symm.trans g)), if_pos g]
    · rw [if_neg g, Assoc.get_set h, if_neg g]

theorem State.tileAt_modTile {s : State} (h : Assoc.wf Tile.idle s.others = true) (t u : Nat) (f : Tile → Tile) :
    (s.modTile t f).tileAt u = if u = t then f (s.tileAt t) else s.tileAt u := State.tileAt_setTile h t u _

/-- Setting a tile keeps the list of the others canonical. -/
theorem State.wf_setTile {s : State} (h : Assoc.wf Tile.idle s.others = true) (t : Nat) (x : Tile) :
    Assoc.wf Tile.idle (s.setTile t x).others = true := by
  unfold State.setTile
  split
  · exact h
  · exact Assoc.wf_set h t x

/-- The tile in turn is a tile. -/
theorem State.tileAt_self (s : State) : s.tileAt s.tileId = s.tile := if_pos rfl

@[simp] theorem State.tileAt_modDie (s : State) (d : Nat) (f : Die → Die) (t : Nat) : (s.modDie d f).tileAt t = s.tileAt t := rfl
@[simp] theorem State.tileAt_modHost (s : State) (f : HostDie → HostDie) (t : Nat) : (s.modHost f).tileAt t = s.tileAt t := rfl
@[simp] theorem State.tileAt_homeWrite (s : State) (a : Nat) (l : List Byte) (t : Nat) : (s.homeWrite a l).tileAt t = s.tileAt t := rfl
@[simp] theorem State.tileAt_setFull (s : State) (a : Nat) (b : Bool) (t : Nat) : (s.setFull a b).tileAt t = s.tileAt t := rfl

/-! ### Registers: those that are hard-wired, and one after a write (R64) -/

@[simp] theorem Regs.sreg_zero (x : Regs) : x.sreg 0 = 0 := rfl
@[simp] theorem Regs.pred_zero (x : Regs) : x.pred 0 = true := rfl
@[simp] theorem Regs.mask_zero (x : Regs) : x.mask 0 = BitVec.allOnes 512 := rfl

end Sys2Proof.Machine
end

