-- ==== Sys2Proof/Laws/Ops.lean ====
section
/-! SUPPORT. What the operations that the events share do, said once each: reads at the homes, operations of agents, engines. -/

namespace Sys2Proof.Machine
open Sys2Proof

/-! ### Engine operations -/

/-- An engine operation goes on after one that has succeeded. -/
theorem bind_ok {α β : Type} {x : E α} {f : α → E β} {s t : State} {a : α} (h : x s = (.ok a, t)) : (x >>= f) s = f a t := by
  show (ExceptT.bind x f) s = _
  unfold ExceptT.bind ExceptT.mk
  show StateT.bind x _ s = _
  unfold StateT.bind
  show (match x s with | (a, s) => _) = _
  rw [h]; rfl

/-- It stops with one that has stopped. -/
theorem bind_error {α β : Type} {x : E α} {f : α → E β} {s t : State} {e : Halt} (h : x s = (.error e, t)) : (x >>= f) s = (.error e, t) := by
  show (ExceptT.bind x f) s = _
  unfold ExceptT.bind ExceptT.mk
  show StateT.bind x _ s = _
  unfold StateT.bind
  show (match x s with | (a, s) => _) = _
  rw [h]; rfl

/-! ### Reads and writes at the homes -/

/-- Where no word carries an uncorrectable error and no bank has failed, a read finds nothing and changes nothing (R244, R245). -/
theorem State.sense_good {s : State} (hb : s.bad = []) (hd : ∀ t, (s.tileAt t).degraded = false ∧ (s.tileAt t).fbank2 = none) (a n : Nat) : s.sense a n = (s, false) := by
  unfold State.sense
  split
  · simp [State.uncorrectable, hb]
  · generalize (List.range ((a + n - 1) / 64 - a / 64 + 1)) = l
    induction l with
    | nil => rfl
    | cons i r ih =>
      rw [List.foldl_cons, show s.senseLine ((a / 64 + i) * 64) a (a + n) = (s, false) by
        unfold State.senseLine; simp [State.badIn, Tile.lostBank, hb, (hd _).1, (hd _).2]]
      exact ih

/-- An access without a generation is applied where it goes (R139). -/
theorem State.arriveHome_none (s : State) (src : Nat) (seq : BitVec 32) (pa : Nat) (b : Bool) : s.arriveHome src seq pa none b = .apply pa s := rfl

/-- Flat SRAM of a tile of the partition, below its trap frame or by the tile itself, is there (R102, R230). -/
theorem State.flatPlace_ok {s : State} {g : Agent} {core : Bool} {sl off n t : Nat} {ga : Word} (hv : s.virt g.part sl = some t)
    (hn : off + n ≤ sliceBytes) (hf : off + n ≤ frameOff ∨ t = g.who.tile) :
    s.flatPlace g core sl off n ga = .ok (.mem (sliceBase t + off) none) := by
  unfold State.flatPlace
  rw [hv]
  dsimp only
  rw [if_neg (Nat.not_lt.2 hn)]
  rcases hf with h | h
  · rw [if_neg (by simp; omega)]
  · rw [if_neg (by simp [h])]

/-! ### Operations of agents -/

/-- An operation that asks for no word of another device and meets no RETRY happens, and the words that it used are gone (R55, R139). -/
theorem State.attempt_done {s s1 : State} {f : State → State} (h : f { s with needs := [], stalled := false } = s1) (hn : s1.needs = [])
    (hs : s1.stalled = false) : s.attempt f = { s1 with needs := s.needs, pulled := s1.pulled.filter fun y => !y.used } := by
  unfold State.attempt; simp [h, hn, hs]

/-! ### The matrix queue -/

/-- The command at the head of a matrix queue waits, starts, takes its time, and has its effect (R182). -/
theorem State.matrixTurn_head {s : State} {t : Nat} {kind : CmdOp → Bool} {run : Cmd → State → State} {c : Cmd} {r : List Cmd}
    (hq : (s.tileAt t).mqueue = c :: r) (hk : kind c.op = true) (hw : c.waitsCopy = false) :
    s.matrixTurn t kind run = match (s.tileAt t).mstart with
      | none =>
        if (s.tileAt t).scoreHeld c || (s.tileAt t).operandsDue c then s
        else s.modTile t fun y => { y.closeFor c with mstart := some s.now }
      | some b => if s.now < b + c.op.time then s else run c s := by
  unfold State.matrixTurn; simp only [hq, hk, hw]; rfl

end Sys2Proof.Machine
end

