-- ==== Sys2Proof/Laws/Quiet.lean ====
section
/-! SUPPORT. Where no route slot is in use and no die keeps frame records, an agent's access asks for no word of another device and meets
no RETRY (R103, R139). -/

namespace Sys2Proof.Machine
open Sys2Proof

/-- Two states that agree on what an agent's wait depends on: the route slots, the frame maps, and what has been asked for. -/
def State.Still (s t : State) : Prop :=
  t.needs = s.needs ∧ t.stalled = s.stalled ∧ t.host.slots = s.host.slots ∧ ∀ d, (t.die d).fmbase = (s.die d).fmbase

/-- No other device can be reached, and every frame is where it was. -/
def State.Local (s : State) : Prop := s.host.slots = [] ∧ ∀ d, (s.die d).fmbase = 0

theorem State.Still.refl (s : State) : s.Still s := ⟨rfl, rfl, rfl, fun _ => rfl⟩

theorem State.Still.trans {s t u : State} (h : s.Still t) (g : t.Still u) : s.Still u :=
  ⟨g.1.trans h.1, g.2.1.trans h.2.1, g.2.2.1.trans h.2.2.1, fun d => (g.2.2.2 d).trans (h.2.2.2 d)⟩

theorem State.Still.local_ {s t : State} (h : s.Still t) (l : s.Local) : t.Local := ⟨h.2.2.1.trans l.1, fun d => (h.2.2.2 d).trans (l.2 d)⟩

/-! ### What changes neither -/

/-- A number out of range reads the first element. -/
theorem vget_eq {α : Type} {n : Nat} (v : Vector α (n + 1)) (k : Nat) : vget v k = if h : k < n + 1 then v[k] else v[0] := by
  unfold vget; by_cases h : k < n + 1 <;> simp [Vector.getD, h]

/-- A function that keeps `g` of an element keeps it of all. -/
theorem vget_vset_keeps {α β : Type} {n : Nat} (v : Vector α (n + 1)) (g : α → β) (d k : Nat) (x : α) (hx : g x = g (vget v d)) :
    g (vget (vset v d x) k) = g (vget v k) := by
  have h : ∀ (i : Nat) (hi : i < n + 1), g (vset v d x)[i] = g v[i] := by
    intro i hi
    unfold vset
    rw [Vector.getElem_setIfInBounds]
    split
    · rename_i e; subst e; rw [hx, vget_eq, dif_pos hi]
    · rfl
  rw [vget_eq, vget_eq]
  split
  · exact h _ ‹_›
  · exact h 0 (Nat.succ_pos n)

theorem State.still_modDie (s : State) (d : Nat) (f : Die → Die) (hf : ∀ x, (f x).fmbase = x.fmbase) : s.Still (s.modDie d f) :=
  ⟨rfl, rfl, rfl, fun k => vget_vset_keeps s.dies Die.fmbase d k _ (hf _)⟩

theorem State.still_modTile (s : State) (t : Nat) (f : Tile → Tile) : s.Still (s.modTile t f) :=
  ⟨by simp, by simp, by simp, fun d => by unfold State.die; simp⟩

theorem State.still_tick (s : State) : s.Still s.tick := ⟨rfl, rfl, rfl, fun _ => rfl⟩

theorem State.still_failTile (s : State) (t : Nat) (c : Byte) (a : Nat) : s.Still (s.failTile t c a) :=
  (s.still_modTile t _).trans (State.still_modDie _ _ _ fun _ => rfl)

theorem State.still_noteRow (s : State) (t b r : Nat) : s.Still (s.noteRow t b r) := by
  unfold State.noteRow
  dsimp only
  split
  · split
    · exact ((s.still_modTile _ _).trans (State.still_modTile _ _ _)).trans (State.still_failTile _ _ _ _)
    · exact ((s.still_modTile _ _).trans (State.still_modTile _ _ _)).trans (State.still_modDie _ _ _ fun _ => rfl)
  · exact s.still_modTile _ _

theorem State.still_senseLine (s : State) (line lo hi : Nat) : s.Still (s.senseLine line lo hi).1 := by
  unfold State.senseLine
  dsimp only
  split
  · exact .refl s
  · have h : s.Still (if s.badIn (max lo line) (min hi (line + 64)) = true then
        s.noteRow (sliceTile line) (bankOf (sliceOff line)) (rowOf (sliceOff line)) else s) := by
      split
      · exact s.still_noteRow _ _ _
      · exact .refl s
    split
    · exact h
    · split
      · exact h.trans ⟨rfl, rfl, rfl, fun _ => rfl⟩
      · exact h.trans (State.still_modDie _ _ _ fun _ => rfl)

theorem State.still_sense (s : State) (pa n : Nat) : s.Still (s.sense pa n).1 := by
  unfold State.sense
  split
  · exact .refl s
  · have h : ∀ (l : List Nat) (a : State × Bool), a.1.Still (l.foldl (fun (a : State × Bool) i =>
        let r := a.1.senseLine ((pa / 64 + i) * 64) pa (pa + n)
        (r.1, a.2 || r.2)) a).1 := by
      intro l
      induction l with
      | nil => exact fun a => .refl a.1
      | cons i r ih => exact fun a => (a.1.still_senseLine _ _ _).trans (ih _)
    exact h _ (s, false)

theorem State.still_readEntry (s : State) (d blk a : Nat) : s.Still (s.readEntry d blk a).1 := by
  unfold State.readEntry
  dsimp only
  split
  · exact .refl s
  · split
    · exact s.still_modDie _ _ fun _ => rfl
    · refine ⟨?_, ?_, ?_, fun k => ?_⟩
      · split <;> (try split) <;> rfl
      · split <;> (try split) <;> rfl
      · split <;> (try split) <;> rfl
      · have hm : ∀ (v : Vector Die 4) j, (vget (v.map fun (d : Die) => { d with tcache := [] }) j).fmbase = (vget v j).fmbase := by
          intro v j
          rw [vget_eq, vget_eq]
          split <;> simp
        split <;> (try split) <;> exact hm _ k

theorem State.still_cachedEntry (s : State) (d a : Nat) (e : Word × Word) : s.Still (s.cachedEntry d a e).1 := by
  unfold State.cachedEntry
  split
  · exact .refl s
  · split
    · exact .refl s
    · exact s.still_tick

theorem State.still_holdEntry (s : State) (d a : Nat) (e : Word × Word) (l : List Nat) : s.Still (s.holdEntry d a e l) :=
  s.still_modDie d _ fun x => by dsimp only; repeat (first | rfl | split)

/-- A walk. -/
theorem still_walkFrom (d n va : Nat) : ∀ (k blk : Nat) (seen : List Nat) (s : State), s.Still (walkFrom d n va k blk seen s).1 := by
  intro k
  induction k with
  | zero => exact fun _ _ s => .refl s
  | succ k ih =>
    intro blk seen s
    unfold walkFrom
    split
    · exact .refl s
    · have hr := s.still_readEntry d blk (blk + walkIndex k va * 16)
      dsimp only
      generalize s.readEntry d blk (blk + walkIndex k va * 16) = r at hr
      obtain ⟨s1, _ | e⟩ := r
      · exact hr
      · have hc := s1.still_cachedEntry d (blk + walkIndex k va * 16) e
        dsimp only
        generalize s1.cachedEntry d (blk + walkIndex k va * 16) e = c at hc
        obtain ⟨s2, w0, w1⟩ := c
        have h2 := hr.trans hc
        dsimp only
        split
        · split <;> exact h2
        · split
          · exact h2
          · exact (h2.trans (s2.still_holdEntry _ _ _ _)).trans (ih _ _ _)
        · split
          · exact h2
          · exact h2.trans (s2.still_holdEntry _ _ _ _)
        · exact h2

theorem State.still_walk (s : State) (d n : Nat) (root : Word) (va : Nat) : s.Still (s.walk d n root va).1 := still_walkFrom d n va 5 _ [] s

/-! ### Agents of a module that reaches no other -/

/-- No index names another device. -/
theorem State.device_local {s : State} (h : s.Local) (ctx : BitVec 16) (i : Nat) (p : BitVec 12) (c : BitVec 16) (k : BitVec 10) :
    s.device ctx i ≠ some (.there p c k) := by
  unfold State.device
  split
  · nofun
  · split
    · nofun
    · dsimp only
      split
      · nofun
      · split
        · nofun
        · rw [if_pos (by simp [State.slotHops, h.1, Assoc.get])]
          nofun

/-- Every access is applied. -/
theorem State.homeAnswer_local {s : State} (h : s.Local) (pa : Nat) (g : Byte) (r : Bool) : s.homeAnswer pa g r = .apply := by
  unfold State.homeAnswer
  dsimp only
  rw [h.2]
  rfl

/-- The place of an agent's address is on this device, or the access fails; nothing is asked for. -/
theorem State.agentSpot_local {s : State} (h : s.Local) (g : Agent) (a : Nat) (wr : Bool) :
    s.Still (s.agentSpot g a wr).1 ∧ ∀ x, (s.agentSpot g a wr).2 = .ok x → ∃ pa, x = .here pa := by
  unfold State.agentSpot
  split
  · split
    · split
      · exact ⟨.refl s, fun x hx => ⟨_, (Except.ok.inj hx).symm⟩⟩
      · exact ⟨.refl s, nofun⟩
    · exact ⟨.refl s, nofun⟩
  · have hw := s.still_walk g.die (s.partCount g.part) g.who.root a
    generalize s.walk g.die (s.partCount g.part) g.who.root a = w at hw
    obtain ⟨s1, w⟩ := w
    cases w with
    | leaf w0 w1 lvl b =>
      dsimp only
      by_cases hb : (!(if wr then bitAt w0 9 && !bitAt w1 54 else bitAt w0 8)) = true
      · rw [if_pos hb]
        exact ⟨hw, nofun⟩
      · rw [if_neg hb]
        cases hd : s1.device g.who.ctx (Leaf.rdev ⟨w0, w1, lvl == 1⟩) with
        | none => exact ⟨hw, nofun⟩
        | some d =>
          cases d with
          | here =>
            dsimp only
            unfold State.agentHome
            rw [State.homeAnswer_local (hw.local_ h)]
            exact ⟨hw, fun x hx => ⟨_, (Except.ok.inj hx).symm⟩⟩
          | there p c k => exact absurd hd (State.device_local (hw.local_ h) _ _ p c k)
    | absent => exact ⟨hw, nofun⟩
    | fault c => exact ⟨hw, nofun⟩
  · exact ⟨.refl s, nofun⟩

/-- A read of an agent asks for nothing. -/
theorem State.agentRead_local {s : State} (h : s.Local) (g : Agent) (a : Nat) : s.Still (s.agentRead g a).1 := by
  have hs := State.agentSpot_local h g a false
  unfold State.agentRead
  generalize s.agentSpot g a false = r at hs
  obtain ⟨s1, e | x⟩ := r
  · exact hs.1
  · obtain ⟨pa, rfl⟩ := hs.2 x rfl
    exact hs.1.trans (s1.still_sense pa 8)

/-- Reads of an agent. -/
theorem State.agentReads_local (g : Agent) : ∀ (n : Nat) {s : State} (_ : s.Local) (a : Nat), s.Still (s.agentReads g a n).1 := by
  intro n
  induction n with
  | zero => exact fun {s} _ _ => .refl s
  | succ n ih =>
    intro s h a
    have hr := State.agentRead_local h g a
    unfold State.agentReads
    generalize s.agentRead g a = r at hr
    obtain ⟨s1, e | w⟩ := r
    · exact hr
    · have hn := hr.trans (ih (hr.local_ h) (a + 8))
      dsimp only
      generalize s1.agentReads g (a + 8) n = q at hn
      obtain ⟨s2, e | l⟩ := q <;> exact hn

/-- A write of an agent asks for nothing. -/
theorem State.agentWrite_local {s : State} (h : s.Local) (g : Agent) (a : Nat) (v : Word) : s.Still (s.agentWrite g a v).1 := by
  have hs := State.agentSpot_local h g a true
  unfold State.agentWrite
  generalize s.agentSpot g a true = r at hs
  obtain ⟨s1, e | x⟩ := r
  · exact hs.1
  · obtain ⟨pa, rfl⟩ := hs.2 x rfl
    refine hs.1.trans ?_
    show s1.Still (s1.agentStore g pa v)
    unfold State.agentStore
    split <;> exact ⟨rfl, rfl, rfl, fun _ => rfl⟩

end Sys2Proof.Machine
end

