-- ==== Sys2Proof/Tests/Slice0.lean ====
section
/-! SUPPORT. The model's own tests: the ill-formed terms that WellFormed refuses, and words written out in the
spec's reference entries that decode to the instruction they stand for (and that the encoder gives back). -/

namespace Sys2Proof.Tests
open Sys2Proof

/-- The word decodes to the instruction and the instruction encodes to the word. -/
def agrees (w : Word) (i : Instr) : Bool := (decode w none).toOption == some i && encode i == some w

/-- The word is refused with this reason. -/
def refused (w : Word) (next : Option Word) (e : Reject) : Bool :=
  match decode w next with
  | .error x => x == e
  | .ok _ => false

/-- Words of the spec's reference entries, family scalar. -/
theorem test_words_scalar :
    (agrees 0x0000201821000000#64 (.add Hdr.plain 3 1 2) &&
     agrees 0x0084206140000001#64 (.addImm ⟨false, 4, 0, false⟩ 12 10 1) &&
     agrees 0x0004E028C00000FF#64 (.andImm Hdr.plain 5 6 0xFF) &&
     agrees 0x00026018200010C8#64 (.bfx Hdr.plain 3 1 8 3 true) &&
     agrees 0x0002009821000000#64 (.cmp Hdr.plain .lt 3 1 2) &&
     agrees 0x0000A01821000000#64 (.div Hdr.plain 3 1 2 false) &&
     agrees 0x0000C02021000001#64 (.rem Hdr.plain 4 1 2 true) &&
     agrees 0x0002A04020000800#64 (.lea Hdr.plain 8 1 0 0 0x100) &&
     agrees 0x0007002C4D5E6F79#64 (.li Hdr.plain 5 0x89ABCDEF true) &&
     agrees 0x00072028091A2B38#64 (.lih Hdr.plain 5 0x01234567)) = true := by
  decide

/-- Words of the spec's reference entries, family scalar2. -/
theorem test_words_scalar2 :
    (agrees 0x0001C01821000001#64 (.max Hdr.plain 3 1 2 true) &&
     agrees 0x0001A01821000001#64 (.min Hdr.plain 3 1 2 true) &&
     agrees 0x0005C0203FFFFFFB#64 (.maxImm Hdr.plain 4 1 (-5)) &&
     agrees 0x0002C01880000000#64 (.mov Hdr.plain (.reg 3 4)) &&
     agrees 0x0002C02860000001#64 (.mov Hdr.plain (.fromPred 5 3)) &&
     agrees 0x0002C01120000002#64 (.mov Hdr.plain (.toPred 2 9)) &&
     agrees 0x0000801821000002#64 (.mulh Hdr.plain 3 1 2 .su) &&
     agrees 0x0000601821000000#64 (.mul Hdr.plain 3 1 2) &&
     agrees 0x0005602020000004#64 (.shrImm Hdr.plain 4 1 4) &&
     agrees 0x0001E01821000004#64 (.sel Hdr.plain 3 1 2 4) &&
     agrees 0x0000401821000000#64 (.sub Hdr.plain 3 1 2) &&
     agrees 0x000520209FFFFFFF#64 (.xorImm Hdr.plain 4 4 (-1)) &&
     agrees 0x0002201820000000#64 (.popc Hdr.plain 3 1) &&
     agrees 0x00A0000000000000#64 (.nop 5)) = true := by
  decide

/-- Words of the spec's reference entries, family control. -/
theorem test_words_control :
    (agrees 0x00080407FFFFFFE8#64 (.br ⟨false, 0, 1, false⟩ (-3)) &&
     agrees 0x0008203800000001#64 (.jmpReg Hdr.plain 7) &&
     agrees 0x000860F000000000#64 (.ret Hdr.plain 30) &&
     agrees 0x0008800008000024#64 (.loop Hdr.plain .lc0 (.imm 4) 2) &&
     agrees 0x0008A00000000000#64 (.align Hdr.plain) &&
     agrees 0x0008C00000000000#64 (.chunk Hdr.plain) &&
     agrees 0x0008E0000000000B#64 (.safept Hdr.plain 11) &&
     agrees 0x0009000280000003#64 (.exit Hdr.plain 20 3) &&
     agrees 0x0009200120000005#64 (.waite Hdr.plain 9 5)) = true := by
  decide

/-- Words of the spec's reference entries, family memory. -/
theorem test_words_memory :
    (agrees 0x004A0E50217FFF8A#64 (.ld ⟨false, 2, 3, true⟩ 10 1 2 .w true (-8)) &&
     agrees 0x000A001880000069#64 (.ld Hdr.plain 3 4 0 .h true 6) &&
     agrees 0x000A2028807FFF82#64 (.st Hdr.plain 5 4 0 .w (-8)) &&
     agrees 0x000A406900000000#64 (.lds Hdr.plain 13 8 0 0) &&
     agrees 0x000A606900000000#64 (.stf Hdr.plain 13 8 0 0) &&
     agrees 0x000A800100000000#64 (.ste Hdr.plain 8 0 0) &&
     agrees 0x000AA00080000400#64 (.pref Hdr.plain 4 0 64) &&
     agrees 0x000AC00000000003#64 (.fence Hdr.plain .host) &&
     agrees 0x000AE00000000004#64 (.drain Hdr.plain .remote) &&
     agrees 0x000B005082800011#64 (.amo Hdr.plain 10 4 5 .add true) &&
     agrees 0x000B2050828C0001#64 (.cas Hdr.plain 10 4 5 6 true) &&
     agrees 0x000B400082800011#64 (.red Hdr.plain 4 5 .add true)) = true := by
  decide

/-- Words of the spec's reference entries, family tasks. -/
theorem test_words_tasks :
    (agrees 0x000C2050828C0000#64 (.repri Hdr.plain 10 4 5 6) &&
     agrees 0x000C405082800000#64 (.freg Hdr.plain 10 4 5) &&
     agrees 0x000C600082800001#64 (.fres Hdr.plain 4 5 true) &&
     agrees 0x000C80214000000F#64 (.nld Hdr.plain 4 10 15) &&
     agrees 0x000CA00145800003#64 (.nst Hdr.plain 10 11 .w) &&
     agrees 0x000CC05000000000#64 (.nalloc Hdr.plain 10) &&
     agrees 0x000CE00140000000#64 (.nfree Hdr.plain 10) &&
     agrees 0x000D000145800000#64 (.nvloss Hdr.plain 10 11) &&
     agrees 0x000D200145980001#64 (.nback Hdr.plain 10 11 12 true)) = true := by
  decide

/-- Words of the spec's reference entries, family engines. -/
theorem test_words_engines :
    (agrees 0x000E006145924281#64 (.copy Hdr.plain ⟨12, 10, 11, 9, 8, 1, .bf16, true⟩) &&
     agrees 0x000E4061458A0440#64 (.gath Hdr.plain ⟨12, 10, 11, 5, 0, 2, .e8, false⟩) &&
     agrees 0x000E800180000002#64 (.tidw Hdr.plain 12 2) &&
     agrees 0x000F015161938000#64 (.mma Hdr.plain ⟨true, .pad 20, .pad 22, 6, .e2m1e4m3, true, false⟩) &&
     agrees 0x000F000081DC4000#64 (.mma Hdr.plain ⟨false, .vreg 0, .vreg 8, 7, .bf16bf16, false, true⟩) &&
     agrees 0x000F210000000000#64 (.mzero Hdr.plain true) &&
     agrees 0x000F414000002800#64 (.mdrain Hdr.plain true 16 .f32 .dyn) &&
     agrees 0x000F6128B0040000#64 (.mstore Hdr.plain true 10 11 (.ty .bf16) .rne) &&
     agrees 0x000F810000000000#64 (.mtile Hdr.plain true)) = true := by
  decide

/-- Words of the spec's reference entries, family vector. -/
theorem test_words_vector :
    (agrees 0x00100011000003FF#64 (.vld Hdr.plain ⟨1, 2, 0, 0, some .f32, -1⟩) &&
     agrees 0x0010602214004000#64 (.vsts Hdr.plain ⟨2, 4, 5, 0, some .bf16, 0⟩) &&
     agrees 0x8011603088600000#64 (.vfma ⟨true, 0, 0, false⟩ ⟨3, 1, 2, 3, 0, some .f32, false⟩) &&
     agrees 0x0011003088098400#64 (.vadd Hdr.plain ⟨3, 1, 2, 0, 2, some .i8, true⟩) &&
     agrees 0x0013C0529801C400#64 (.vshr Hdr.plain ⟨5, 5, 6, 0, 0, some .i32, true⟩) &&
     agrees 0x0010802380000000#64 (.vbcast Hdr.plain 2 7 0 (some .f32)) &&
     agrees 0x0010A0930003C083#64 (.vmovs Hdr.plain 9 6 none 131) &&
     agrees 0x0010C00200000000#64 (.vshapeReg Hdr.plain 4) &&
     agrees 0x0010C000060044FF#64 (.vshapeImm Hdr.plain 3 255 .bf16) &&
     agrees 0x0013003088000800#64 (.vcmp Hdr.plain 3 1 2 0 (some .f32) .lt) &&
     agrees 0x0013203088800000#64 (.vsel Hdr.plain 3 1 2 4 0 (some .f32))) = true := by
  decide

/-- Words of the spec's reference entries, family vector2. -/
theorem test_words_vector2 :
    (agrees 0x0013E0500001C000#64 (.viota Hdr.plain 5 0 (some .i32)) &&
     agrees 0x0014004080004000#64 (.vcvt Hdr.plain 4 1 0 .bf16) &&
     agrees 0x0014204094C10008#64 (.vquant Hdr.plain 4 1 5 6 .e2m1 .b16 false .c2) &&
     agrees 0x0014405200000000#64 (.vtrans Hdr.plain 5 4 (some .f32)) &&
     agrees 0x0014605218000000#64 (.vperm Hdr.plain 5 4 6 0 (some .f32)) &&
     agrees 0x0014801180000400#64 (.vred Hdr.plain 1 3 0 (some .f32) true) &&
     agrees 0x0014A0708003C001#64 (.vpsmov Hdr.plain 7 1 none) &&
     agrees 0x0014C08180404000#64 (.vscan Hdr.plain 8 3 2 0 (some .bf16)) &&
     agrees 0x0014E04124800003#64 (.vselk Hdr.plain 4 2 9 0 1 3 0 (some .f32)) &&
     agrees 0x001500429883C008#64 (.vmergek Hdr.plain 4 5 6 0 1 8) &&
     agrees 0x0015206100400000#64 (.vshort Hdr.plain 6 2 2 0 (some .f32)) &&
     agrees 0x001540931CA3C000#64 (.vsamp Hdr.plain 9 6 7 5) &&
     agrees 0x001560720003C000#64 (.vrng Hdr.plain 7 4 0 none) &&
     agrees 0x001580308803CC00#64 (.vmask Hdr.plain 3 (.andn 1 2) none) &&
     agrees 0x001580228003D400#64 (.vmask Hdr.plain 2 (.first 5) none)) = true := by
  decide

/-- Words of the spec's reference entries, family system. -/
theorem test_words_system :
    (agrees 0x0018000000000042#64 (.trap Hdr.plain 0x42) &&
     agrees 0x0018200000000000#64 (.rte Hdr.plain) &&
     agrees 0x0018403800220000#64 (.ctlrd Hdr.plain 7 0x011) &&
     agrees 0x0018600080020000#64 (.ctlwr Hdr.plain 4 0x001) &&
     agrees 0x0018800082800001#64 (.tlbi Hdr.plain (.page 4 5)) &&
     agrees 0x0018A05166000000#64 (.seal Hdr.plain 10 11 12) &&
     agrees 0x0018C05166000000#64 (.unseal Hdr.plain 10 11 12) &&
     agrees 0x0018E00082800000#64 (.route Hdr.plain 4 5)) = true := by
  decide

/-- The pair of R315's worked case: a COPYM and its follow-on. -/
theorem test_words_copym :
    (decode 0x000E20614A2A0000#64 (some 0x000F002801828000#64)).toOption =
      some (.copym Hdr.plain ⟨12, 10, 20, 21, 0, 0, .plain, false⟩
        ⟨false, .pad 10, .vreg 0, 6, .e4m3e4m3, true, false⟩) := by decide

/-- With D = 1 in its second word the COPYM is refused (R315). -/
theorem test_copym_bad_follow :
    refused 0x000E20614A2A0000#64 (some 0x002F002801828000#64) .followOn = true := by decide

/-- R175's worked case of words that are no instructions. -/
theorem test_rejects :
    (refused 0x8000000000000000#64 none .reserved && refused 0x0002E00000000000#64 none .opcode &&
     refused 0x0000200000000003#64 none .reserved && refused 0x0002200000000003#64 none .reserved) = true := by
  decide

/-- One ill-formed term for each check of WellFormed. -/
theorem test_illformed :
    (Instr.br ⟨true, 0, 0, false⟩ 0).problem = some .vote ∧
    (Instr.align ⟨false, 0, 1, false⟩).problem = some .guard ∧
    (Instr.bfx Hdr.plain 1 2 60 4 false).problem = some .operands ∧
    (Instr.loop Hdr.plain .lc0 (.imm 1) 0).problem = some .function ∧
    (Instr.exit Hdr.plain 62 3).problem = some .register ∧
    (Instr.exit Hdr.plain 1 0).problem = some .operands ∧
    (Instr.waite Hdr.plain 1 4).problem = some .reserved ∧
    (Instr.ld Hdr.plain 1 2 3 .d true 0).problem = some .function ∧
    (Instr.red Hdr.plain 1 2 .swap false).problem = some .function ∧
    (Instr.copy Hdr.plain ⟨1, 2, 3, 4, 0, 0, .plain, true⟩).problem = some .operands ∧
    (Instr.mma Hdr.plain ⟨false, .pad 63, .pad 0, 0, .i8i8, false, false⟩).problem = some .register ∧
    (Instr.mdrain Hdr.plain false 17 .f32 .rne).problem = some .register ∧
    (Instr.vabs Hdr.plain ⟨1, 2, 3, 0, 0, none, false⟩).problem = some .reserved ∧
    (Instr.vquant Hdr.plain 1 2 1 0 .e4m3 .b16 false .c0).problem = some .operands ∧
    (Instr.vselk Hdr.plain 1 2 3 0 0 4 0 none).problem = some .operands := by
  decide

/-! ### Witnesses: states and operands that meet the hypotheses of the statements -/

open Sys2Proof.Machine Sys2Proof.Spec

/-- Tile 0, the one tile of partition 0, in cycle 100 with a task. -/
def base : State :=
  { State.reset.placeWord 0 with now := 100, host := { HostDie.reset with pmap := [(0, 0x80000000)] }, turn := some [0] }

/-- The same with its tile changed. -/
def one (f : Tile → Tile) : State := { base with tile := f base.tile }

/-- The same with a chunk open from the word that issues on, and some scalar registers set. -/
def word (l : List (SReg × Word)) : State := one fun x => { x with
  cur := some { Chunk.fresh Fetch.start 0 none 1 false false with count := 1 }
  iw := { x.iw with caps := x.regs.caps }
  nseq := 1
  regs := l.foldl (fun r e => r.land (.sreg e.1 e.2) 0) x.regs }

/-- A state whose memory carries no error, one that waits for nothing of another device, and one that can reach none. -/
theorem sound_of {s : State} (hb : s.bad = []) (ho : s.others = []) (hd : s.tile.degraded = false) (h2 : s.tile.fbank2 = none) : Sound s :=
  ⟨hb, fun t => by
    unfold State.tileAt
    split
    · exact ⟨hd, h2⟩
    · rw [ho]; exact ⟨rfl, rfl⟩⟩
theorem rested_of {s : State} (hs : s.stalled = false) (hp : s.pulled = []) : Rested s := ⟨hs, fun y h => by rw [hp] at h; cases h⟩
def alone (s : State) : Bool := s.host.slots.isEmpty && (List.range 4).all fun d => (s.die d).fmbase == 0
theorem alone_of {s : State} (h : alone s = true) : Alone s := by
  simp only [alone, Bool.and_eq_true, List.isEmpty_iff, List.all_eq_true, List.mem_range, beq_iff_eq] at h
  refine ⟨h.1, fun d => ?_⟩
  by_cases hd : d < 4
  · exact h.2 d hd
  · have h0 := h.2 0 (by decide)
    unfold State.die vget at *
    simpa [Vector.getD, hd] using h0

/-- The flat address of an offset in the tile's own slice, through the index of this device. -/
def own (off : Nat) : Word := BitVec.ofNat 64 (0xFFF * 2 ^ 52 + off)

/-- O1, O2, O3. -/
theorem wit_scalar : (arith (.div Hdr.plain 3 1 2 false) (word [(1, 7), (2, 0)])).isSome = true ∧
    (pickWord (.bfx Hdr.plain 3 1 8 3 true) (word [(1, 7)])).isSome = true ∧ (pickWord (.bfi Hdr.plain 3 1 2 60 3) (word [])).isSome = true ∧
    (predicate (.cmp Hdr.plain .lt 3 1 2) (word [])).isSome = true ∧ guardOf Hdr.plain (word []).tile.regs = true ∧
    guardOf ⟨false, 0, 1, false⟩ (word []).tile.regs = false := by decide

/-- A level that is open from word 2 to word 5. -/
def looping (l : List (SReg × Word)) : State :=
  { word l with tile := { (word l).tile with fetch := { (word l).tile.fetch with loops := #v[⟨true, 2, 5⟩, ⟨false, 0, 0⟩, ⟨false, 0, 0⟩] } } }

/-- BranchMovesFetch: a target at either end of the program space, and one past it; LoopOpensItsLevel: an open level, a zero count, a
count of four. -/
theorem wit_control : branch (.br Hdr.plain 0) (word []) = some (Hdr.plain, 0, none) ∧
    branch (.jmpReg Hdr.plain 1) (word [(1, 8191)]) = some (Hdr.plain, 8191, none) ∧
    branch (.jmpReg Hdr.plain 1) (word [(1, 8192)]) = some (Hdr.plain, 8192, none) ∧ branch (.br Hdr.plain (-1)) (word []) = some (Hdr.plain, -1, none) ∧
    (looping []).tile.fetch.loops[0].active = true ∧ (word []).tile.fetch.loops[0].active = false ∧ ((sx (word []) 5).extractLsb' 0 32) = 0#32 ∧
    guardOf Hdr.plain (looping []).tile.regs = true := by decide

/-- PreciseTrapEndsTheChunkBeforeTheWord: a word behind which nothing has issued, and a second word behind which one has. -/
theorem wit_preciseTrap : NoLater (word []) ∧ ¬ NoLater (one fun x => { x with
      cur := some { Chunk.fresh Fetch.start 0 (some x.snap) 1 false false with count := 3 }, iw := { x.iw with seq := 1 }, nseq := 3 }) := by
  unfold NoLater; decide

/-- SafeptMarksItsChunk: a legal live map with a request pending, and a map that is not in the program. -/
theorem wit_safept : 0 + 1 < (word []).tile.words ∧ ((word []).tile.progWord 0).getLsbD 0 = false ∧ fld ((word []).tile.progWord 1) 63 49 = 0 ∧
    ¬ (5 + 1 < (word []).tile.words) := by decide

/-- WaiteWaitsForItsEvent, RteRestoresTheFrame: outside a handler, and in one whose frame is all zeros. -/
theorem wit_rte : (word []).tile.regs.inh = false ∧
    (let s := one fun x => { x with regs := { x.regs with inh := true } }
     s.tile.regs.inh = true ∧ guardOf Hdr.plain s.tile.regs = true ∧
     (readFrame (s.resumeFetch.occupied .S 1 Hdr.plain) (sliceBase s.tileId + frameOff) s.tile.regs).isSome = true) := by decide +kernel

/-- CtlrdReadsTheRegister, CtlwrWritesTheRegister: numbers at the ends of the two halves, with and without PRIV, and values at a field's bound. -/
theorem wit_ctl : (word []).tile.priv = false ∧ (one fun x => { x with priv := true }).tile.priv = true ∧ (ctlValue (word []) 0x000).isSome = true ∧
    (ctlValue (word []) 0x044).isSome = true ∧ (ctlValue (word []) 0x809).isSome = true ∧ ctlValue (word []) 0x7FF = none ∧ ctlAccepts 0x001 4 = true ∧
    ctlAccepts 0x001 5 = false ∧ ctlAccepts 0x800 0x2000 = true ∧ ctlAccepts 0x804 0xFFFF = true := by decide

theorem sound_word (l : List (SReg × Word)) : Sound (word l) := sound_of rfl rfl rfl rfl
theorem rested_word (l : List (SReg × Word)) : Rested (word l) := rested_of rfl rfl

/-- FlatAddressReachesItsSlice, LoadSendsWhatItReads, StoreBuffersItsBytes: the last word of the slice below the trap frame, a misaligned
address, a control window with and without PRIV. -/
theorem wit_flat : (word []).device (word []).tile.ctxid (fld (own 0x2F9FF8) 63 52) = some .here ∧
    spaceOf (fld (own 0x2F9FF8) 51 0) = .flat 0 0x2F9FF8 := by decide
theorem wit_access (use : Use) (ok : PathOk) :
    ∃ m, AccessAt (word [(1, own 0x2F9FF8)]) Hdr.plain .A 1 (own 0x2F9FF8) 8 use ok (sliceBase 0 + 0x2F9FF8) none m ∧ Sound m :=
  ⟨(word [(1, own 0x2F9FF8)]).occupied .A 1 Hdr.plain, Prod.ext rfl rfl, sound_of rfl rfl rfl rfl⟩
theorem wit_loadStore : (own 0x2F9FF8).toNat % 8 = 0 ∧ (own 1).toNat % 8 = 1 ∧ isWindow (own 0x2F9FF8) = false ∧
    Clear (word []) (own 0x2F9FF8) 8 ∧ WindowHere (word []) (own 0x800000000) ∧ Clear (word []) (own 0x800000000) 8 ∧
    (word []).heldWindow = false := by
  unfold Clear WindowHere; decide
theorem wit_room (l : List Nat) : Room (word []) l := ⟨_, rfl, .inl rfl⟩
theorem wit_younger : YoungerIdle (word []) := by
  intro c h; have : c = { Chunk.fresh Fetch.start 0 none 1 false false with count := 1 } := by simpa [word, one] using h.symm
  subst this; intro; rfl

/-- BoundaryWordRecordsItsOperation: each side of its conditions. -/
theorem wit_boundary : (boundaryOp (.drain Hdr.plain .far) (word [])).isSome = true ∧ (boundaryOp (.cancel Hdr.plain 1 2) (word [])).isSome = true ∧
    fld (sx (word [(2, 0xFFFFFFFF)]) 2) 63 32 = 0 ∧ fld (sx (word [(2, 0x100000000)]) 2) 63 32 ≠ 0 ∧
    (privilegedOp (.tlbi Hdr.plain (.ctx 1)) (word [])).isSome = true ∧ (privilegedOp (.seal Hdr.plain 3 1 2) (word [])).isSome = true ∧
    spaceOf (fld (own 0x10000000000) 51 0) = .paged ∧ (own 0x10000000000).toNat % 64 = 0 := by decide

/-- MemoryBoundaryWordRecordsItsOperation, FarWordHoldsItsOperation and NodeWordsReadAndWriteOwnNodes: references at the ends of a die. -/
theorem wit_memoryOp : (memoryOp (.lds Hdr.plain 3 1 0 0) (word [(1, own 8)]) 0).isSome = true ∧ (word []).isFlatHere (own 8) = true ∧
    (memoryOp (.cas Hdr.plain 3 1 2 4 true) (word []) 0).isSome = true ∧ (word []).futurePerm (own 16) = false ∧ (own 16).toNat % 16 = 0 := by decide
theorem wit_freg (m : State) (hm : m = (place ((word []).tileAgent 0) true (own 16) 16 .atomic wordFmt ((word []).occupied .A 1 Hdr.plain)).2) :
    AccessAt (word []) Hdr.plain .A 1 (own 16) 16 .atomic wordFmt (sliceBase 0 + 16) none m ∧ m.futurePerm (own 32) = false ∧
    (word []).futurePerm (own 32) = false ∧ (place (m.tileAgent m.tileId) true (own 32) 16 .wr anyFmt m).1 = .ok (.mem (sliceBase 0 + 32) none) := by
  subst hm; exact ⟨Prod.ext rfl rfl, rfl, rfl, rfl⟩
theorem wit_node : (nodeOp (.nvloss Hdr.plain 1 2) (word [])).isSome = true ∧ fld (own 0xFFFFF) 51 22 = 0 ∧ fld (own 0x400000) 51 22 ≠ 0 ∧
    fld (sx (word [(2, 0x10000)]) 2) 63 16 ≠ 0 := by decide
theorem wit_nodeHere : NodeHere (word []) (own 0xFFFFF) 0xFFFFF := ⟨rfl, rfl, rfl⟩
theorem wit_ownNodes : OwnNodes { word [] with nodes := [(0xFFFFF, ⟨0, 0⟩)] } 0xFFFFF 1 ∧ ¬ OwnNodes (word []) 0xFFFFF 1 ∧
    ¬ OwnNodes (word []) 0xFFFFF 2 := by
  refine ⟨⟨by decide, fun i hi => ⟨⟨0, 0⟩, ?_⟩⟩, fun h => ?_, fun h => absurd h.1 (by decide)⟩
  · have : i = 0 := by omega
    subst this; decide
  · obtain ⟨g, hg, _⟩ := h.2 0 (by decide)
    cases (show (none : Option NodeTag) = some g from hg)

/-- The same statement and OperationsAreAppliedAtTheirHome: a privileged task's CAS on OWNER, as it issues and in its turn. -/
theorem wit_ownerCas : (let s := { word [(1, own 0x840000030)] with tile := { (word [(1, own 0x840000030)]).tile with priv := true } }
      guardOf Hdr.plain s.tile.regs = true ∧ s.tile.priv = true ∧ s.device s.tile.ctxid (fld (sx s 1) 63 52) = some .here ∧
      fld (sx s 1) 51 0 = 0x840000030) ∧
    (let s := one fun x => { x with bnd := some ⟨base.tile.ident 0, .cas 3 (own 0x840000030) true 0 7, 0, 0, some 0, [], 0, false, false, none, Fetch.start⟩ }
     s.atomicTurn 0 = true ∧ (place (s.identAgent (base.tile.ident 0)) true (own 0x840000030) 8 .atomic wordFmt s).1 = .ok (.window ownerOff)) := by
  refine ⟨by decide, by decide, rfl⟩

/-- CopyWordHoldsItsCommand and MatrixWordHoldsItsCommand: operands that pass the checks, the command queue one short of full. -/
theorem wit_copy : CopyFits (word [(10, own 0), (12, own 64), (9, 32)]) ⟨11, 12, 10, 9, 0, 1, .plain, false⟩ ∧
    guardOf Hdr.plain (word [(10, own 0), (12, own 64), (9, 32)]).tile.regs = true ∧ (word []).tile.cmdCount < 64 := by
  unfold CopyFits; refine ⟨⟨by decide, by decide, by decide, by decide, by decide, by decide, by decide, ?_⟩, by decide, by decide⟩
  simp only [List.forall_mem_cons]
  exact ⟨by decide, by decide, fun _ h => by cases h⟩
theorem wit_mma : MmaFits (word [(6, 16)]) ⟨false, .vreg 0, .vreg 8, 6, .bf16bf16, false, true⟩ := by
  unfold MmaFits; decide
/-- An INT32 shape of four elements. -/
def quad (l : List (SReg × Word)) : State :=
  { word l with tile := { (word l).tile with iw := { (word l).tile.iw with caps := { (word l).tile.iw.caps with vshape := 0x70041 } } } }
theorem wit_gather : GatherFits (quad [(10, own 0), (12, own 64)]) ⟨11, 12, 10, 5, 0, 2, .e8, false⟩ false ∧
    GatherFits (quad [(10, own 0), (12, own 64)]) ⟨11, 12, 10, 5, 0, 2, .e8, false⟩ true := by
  unfold GatherFits
  refine ⟨⟨by decide, by decide, by decide, ?_, by decide +kernel⟩, ⟨by decide, by decide, by decide, ?_, by decide +kernel⟩⟩ <;>
    (intro b h; rw [if_pos rfl] at h; cases h)
theorem wit_matrix : (∀ i ∈ [Instr.mma Hdr.plain ⟨false, .vreg 0, .vreg 8, 6, .bf16bf16, false, true⟩, .mzero Hdr.plain true, .mdrain Hdr.plain true 16 .f32 .dyn,
      .mtile Hdr.plain true, .mstore Hdr.plain true 10 11 (.ty .bf16) .rne], (matrixCmd i (word [])).isSome = true) ∧
    (let s := word [(10, own 0), (11, 0x20)]
     fld (sx s 11) 63 20 = 0 ∧ (sx s 10).toNat % 32 = 0 ∧ fld (sx s 11) 19 0 % 32 = 0 ∧ s.device s.tile.ctxid (fld (sx s 10) 63 52) = some .here ∧
     spaceOf (fld (sx s 10) 51 0) = .flat 0 0 ∧ (s.flatPlace (s.tileAgent s.tileId) false 0 0 (127 * 32 + 128) (sx s 10)).toOption.isSome = true) := by decide

/-- The vector statements: a legal captured shape, a type that fits, and one that does not. -/
theorem wit_vector : ShapeLegal (quad []) ∧ TypeOk (quad []) none = true ∧ TypeOk (quad []) (some .i32) = true ∧ TypeOk (quad []) (some .f32) = false ∧
    (quad []).shape.ty = .i32 ∧ (quad []).shape.n = 4 ∧ takesType .add (quad []).shape.ty = true ∧ takesType .exp2 (quad []).shape.ty = false ∧
    (elementwise (.vshr Hdr.plain ⟨5, 5, 6, 0, 0, none, true⟩)).isSome = true ∧ (perGroupWord (.viota Hdr.plain 5 0 none) (quad [])).isSome = true ∧
    (perGroupWord (.vcvt Hdr.plain 5 4 0 .f32) (quad [])).isSome = true ∧ guardOf Hdr.plain (quad []).tile.regs = true := by
  unfold ShapeLegal; decide

/-- The shape of 64 columns of FP32 in one row, for VQUANT and the list words. -/
def row : State :=
  { word [] with tile := { (word []).tile with iw := { (word []).tile.iw with caps := { (word []).tile.iw.caps with vshape := 0xFC0 } } } }
theorem wit_lists : (row.shape.ty = .f32 ∨ row.shape.ty = .bf16) ∧ row.shape.cols % 64 = 0 ∧ row.shape.n = 64 ∧ ShapeLegal row ∧
    listFits row 4 = true ∧ TypeOk row (some .f32) = true ∧ (listOf (row.tile.vecAt 4 row.now)).count ≤ 64 ∧
    (mergeK (listOf (row.tile.vecAt 4 row.now)) (listOf (row.tile.vecAt 5 row.now)) (latchLsb row 0) (latchLsb row 1) 64).isSome = true := by
  unfold ShapeLegal; decide +kernel
theorem wit_vshape : ctlAccepts 0x000 (sx (word [(4, 0x70101)]) 4) = true ∧ ctlAccepts 0x000 (sx (word [(4, 0x100000)]) 4) = false := by decide

/-- VectorLoadFromOwnSlice, VectorStoreToOwnSlice: one run, and two rows whose runs lie apart. -/
theorem wit_runs (strided : Bool) : RunsInOwnSlice (quad [(2, own 64), (3, 128)]) ⟨1, 2, if strided then 3 else 0, 0, none, 0⟩ strided
    (fun r => 64 + 128 * r) := by
  refine ⟨by unfold ShapeLegal; decide, by cases strided <;> decide, sound_of rfl rfl rfl rfl, rested_of rfl rfl, ?_, ?_, ?_⟩
  · cases strided <;> decide
  · intro h; subst h; decide
  · intro r hr
    have hr' : r = 0 ∨ (r = 1 ∧ strided = true) := by
      cases strided
      · left; simpa [runCount] using hr
      · have h2 : runCount (quad [(2, own 64), (3, 128)]) true = 2 := by decide
        rw [h2] at hr
        exact match r, hr with | 0, _ => .inl rfl | 1, _ => .inr ⟨rfl, rfl⟩
    rcases hr' with rfl | ⟨rfl, rfl⟩
    · refine ⟨⟨?_, ?_, 0, ?_, ?_⟩, ?_⟩ <;> cases strided <;> first | rfl | decide
    · refine ⟨⟨?_, ?_, 0, ?_, ?_⟩, ?_⟩ <;> first | rfl | decide
theorem wit_roomAny (s : State) (c : Chunk) (l : List Nat) (h : s.tile.chunkOf s.tile.iw.seq = some c) (hf : c.first = s.tile.iw.seq) : RoomForAny s l :=
  ⟨c, h, .inl hf⟩

/-- ExitHoldsItsSuccessors: a JOIN block, a block that the launch checks accept or not, a misaligned block in a chunk that is not alone. -/
theorem wit_exit : (exitAddr (word [(20, own 64)]) 20 0).toNat % 64 = 0 ∧ Clear (word [(20, own 64)]) (exitAddr (word [(20, own 64)]) 20 0) 64 ∧
    (blockOf (blockWords (word []) (sliceBase 0 + 64))).join = false ∧
    (blockOf (blockWords { word [] with mem := Memory.write [] (sliceBase 0 + 64) [0, 0, 0, 0, 1] } (sliceBase 0 + 64))).join = true ∧
    (exitAddr (word [(20, own 63)]) 20 0).toNat % 64 ≠ 0 ∧ (word [(20, own 63)]).tile.deferred = none ∧
    (∀ c, (word [(20, own 63)]).tile.chunkOf 0 = some c → c.lone = false ∨ c.first ≠ 0) := by
  unfold Clear; refine ⟨by decide, by decide, by decide, by decide, by decide, by decide, ?_⟩
  intro c h; left; have : c = { Chunk.fresh Fetch.start 0 none 1 false false with count := 1 } := by simpa [word, one, Tile.chunkOf, Chunk.fresh] using h.symm
  subst this; rfl

/-- Tile 0 with a boundary operation whose chunk has committed. -/
def waits (op : BOp) : State := one fun x => { x with bnd := some ⟨base.tile.ident 0, op, 0, 0, some 0, [], 0, false, false, none, Fetch.start⟩ }

/-- WaitingWordsArePerformed, clause by clause. -/
theorem wit_waiting : (waits (.lds 3 (sliceBase 0))).headOf 0 = true ∧ (waits (.stf (sliceBase 0) 7)).headOf 0 = true ∧
    ((waits (.fence .host)).tileAt 0).drains = [] ∧ ((waits (.fence .host)).tileAt 0).activeCmds = [] ∧ (waits (.fence .host)).far = [] ∧
    (waits (.fence .host)).wb = [] ∧ ((waits (.fence .host)).tileAt 0).unsent = [] ∧ ((waits (.fence .host)).tileAt 0).remote = [] ∧
    ({ waits (.fence .host) with far := [⟨.nfree, base.tile.ident 0, 0, some 0, 0, none, 0, 0, 0, false⟩] } : State).fenced 0 0 .engine = false ∧
    Assoc.wf Tile.idle (waits (.tlbi 0 3 0)).others = true ∧ (waits (.tlbi 0 3 0)).firstOf BOp.isTlbi 0 = true ∧
    (waits (.route 1023 (own 32))).firstOf BOp.isRoute 0 = true ∧ (waits (.route 0 0)).host.isOwner 1 0 = false ∧
    (let s := (waits (.route 0 (own 32))).modHost fun x => { x with owner := 0x4000000000000000 }
     s.firstOf BOp.isRoute 0 = true ∧ s.host.isOwner 1 0 = true ∧ ∃ pa s1, s.fetchFor (base.tile.ident 0) (own 32) 32 = .bytes pa s1) := by
  refine ⟨by decide, by decide, by decide, by decide, by decide, by decide, by decide, by decide, by decide, by decide, by decide, by decide,
    by decide, by decide, by decide, ⟨_, _, rfl⟩⟩

/-- One far operation on its way. -/
def flying (k : FarKind) (home : Nat) (l : List (Nat × NodeTag)) : State :=
  { base with far := [⟨k, base.tile.ident 0, home, some 0, 0, none, 0, 0, 0, false⟩], nodes := l }

theorem sound_waits (op : BOp) : Sound (waits op) := sound_of rfl rfl rfl rfl
theorem sound_flying (k : FarKind) (home : Nat) (l : List (Nat × NodeTag)) : Sound (flying k home l) :=
  sound_of rfl rfl rfl rfl

/-- OperationsAreAppliedAtTheirHome: an atomic in turn, a far operation alone, a future here, a free node. -/
theorem wit_atHome : (∀ op ∈ [BOp.amo 3 (own 8) .swap true 5, .cas 3 (own 8) true 0 1], (waits op).atomicTurn 0 = true ∧ op.rmw.isSome = true ∧
      (let z := place ((waits op).identAgent (base.tile.ident 0)) true (own 8) 8 .atomic wordFmt (waits op)
       z.1 = .ok (.mem (sliceBase 0 + 8) none) ∧ z.2.undrained (sliceBase 0 + 8) 8 = false ∧ 0 ≤ z.2.now ∧
       (z.2.takeSrcSeq 0).2.arriveHome 0 (z.2.takeSrcSeq 0).1 (sliceBase 0 + 8) none false = .apply (sliceBase 0 + 8) (z.2.takeSrcSeq 0).2 ∧
       Sound (z.2.takeSrcSeq 0).2)) ∧
    (∀ k ∈ [FarKind.red .add true 5, .nfree], (flying k 7 []).pick ((flying k 7 []).farChoices false) = some (0, flying k 7 [])) ∧
    (∀ k ∈ [FarKind.nvloss 3, .nback 3 5 true false], let s := flying k 0xFFFFF [(0xFFFFF, ⟨0, 0⟩)]
      s.pick (s.farChoices true) = some (0, s) ∧ s.nodeTag 0xFFFFF = some ⟨0, 0⟩ ∧ s.uncorrectable (nodeBase 0xFFFFF) 32 = false) ∧
    (∀ i, i < 8 → base.guarded (8 + i) = false) ∧ Memory.wf base.mem = true := by
  refine ⟨?_, ?_, ?_, by decide, by decide⟩
  · intro op h
    simp only [List.mem_cons, List.not_mem_nil, or_false] at h
    rcases h with rfl | rfl <;> exact ⟨rfl, rfl, rfl, rfl, by decide, rfl, sound_of rfl rfl rfl rfl⟩
  · intro k h
    simp only [List.mem_cons, List.not_mem_nil, or_false] at h
    rcases h with rfl | rfl <;> rfl
  · intro k h
    simp only [List.mem_cons, List.not_mem_nil, or_false] at h
    rcases h with rfl | rfl <;> exact ⟨rfl, rfl, by decide⟩

/-- Tile 0 with a task of region 0, a root with room for one node, one entry and one tile, whose RCB lies at the start of its slice. -/
def rooted : State :=
  { base with
    mem := Memory.write [] (sliceBase 0) ([0xFF, 0xFF, 0xFF, 0xFF, 0, 0, 0, 1] ++ List.replicate 16 0 ++ [1] ++ List.replicate 7 0 ++ [1, 0, 0, 0, 1]) }

theorem wit_atHome2 :
    (∃ s1 s2, Sound s2 ∧ (waits (.freg 3 (own 16) (own 32))).reach 0
        ⟨base.tile.ident 0, .freg 3 (own 16) (own 32), 0, 0, some 0, [], 0, false, false, none, Fetch.start⟩ (own 16) 16 .atomic = .here (sliceBase 0 + 16) s1 ∧
      s1.reach 0 ⟨base.tile.ident 0, .freg 3 (own 16) (own 32), 0, 0, some 0, [], 0, false, false, none, Fetch.start⟩ (own 32) 16 .wr =
        .here (sliceBase 0 + 32) s2) ∧
    (∃ s1, (waits (.fres (own 16) 5 true)).reach 0 ⟨base.tile.ident 0, .fres (own 16) 5 true, 0, 0, some 0, [], 0, false, false, none, Fetch.start⟩
        (own 16) 16 .atomic = .here (sliceBase 0 + 16) s1 ∧ Sound s1) ∧
    (waits (.nalloc 3)).atomicTurn 0 = true ∧ (waits (.nalloc 3)).lowestFree 0 = some 0 ∧ ({ waits (.nalloc 3) with nodes := [] } : State).lowestFree 3 = some 0x300000 ∧
    (fitsBudget (rooted.tileAgent 0) .nsm 0 1 rooted).1 = none := by
  refine ⟨⟨(waits (.freg 3 (own 16) (own 32))).takeSrcSeq 0 |>.2, ((waits (.freg 3 (own 16) (own 32))).takeSrcSeq 0).2.takeSrcSeq 0 |>.2, sound_of rfl rfl rfl rfl, rfl, rfl⟩,
    ⟨(waits (.fres (own 16) 5 true)).takeSrcSeq 0 |>.2, rfl, sound_of rfl rfl rfl rfl⟩, rfl, by decide, by decide, by decide +kernel⟩

/-- ResultsLand: a result due now before one of the same cycle and a later word, a load and a drain that may land, three copies of a result,
a WAITE whose deadline is reached, a word that fetch may deliver. -/
theorem wit_land :
    (let l : Landing := ⟨100, 5, .sreg 0 9, 0⟩
     let s := one fun x => { x with inflight := [⟨100, 6, .pred 0 false, 0⟩, l] }
     l ∈ (s.tileAt 0).inflight ∧ l.cyc ≤ s.now ∧ ∀ m ∈ (s.tileAt 0).inflight, m.cyc ≤ s.now → m = l ∨ l.cyc < m.cyc ∨ (l.cyc = m.cyc ∧ l.seq < m.seq)) ∧
    (let l : Load := ⟨0, 0, .sreg 3 9, 100, none, 0⟩
     ((one fun x => { x with loads := [l] }).tileAt 0).loads = [l] ∧ ((one fun x => { x with loads := [l] }).tileAt 0).fixedBefore l = false ∧
     ((one fun x => { x with drains := [(l, none)] }).tileAt 0).loads = [] ∧ l.ready ≤ base.now) ∧
    (let a := fun (x y z : Word) => (⟨⟨100, 0, .sreg 3 x, 0⟩, ⟨100, 0, .sreg 3 y, 0⟩, ⟨100, 0, .sreg 3 z, 0⟩, 32⟩ : Vote)
     (a 1 1 1).a = (a 1 1 1).b ∧ (a 1 1 1).b = (a 1 1 1).c ∧ (a 1 2 3).a.dest = .sreg 3 1 ∧ (a 1 2 3).b.dest = .sreg 3 2 ∧
     (a 1 2 3).c.dest = .sreg 3 3 ∧ (a 1 1 3).b.dest = .sreg 3 1 ∧ ((one fun x => { x with votes := [a 1 1 3] }).tileAt 0).votes = [a 1 1 3] ∧
     (a 1 1 3).a.cyc ≤ base.now) ∧
    ((one fun x => { x with waite := some (0, 0, 1, Vector.replicate 4 0) }).tileAt 0).waite = some (0, 0, 1, Vector.replicate 4 0) ∧
    (base.dutyHeld 0 = false ∧ (base.tileAt 0).fetchOpen 100 = true ∧ (base.tileAt 0).fetched.toOption.isSome = true ∧
     (base.tileAt 0).closeBefore (.nop 0) = none ∧ (base.tileAt 0).thirdChunk = false ∧ (base.tileAt 0).queue = []) := by
  decide

/-- Tile 0 with a chunk of one word that has issued and asked for its commit in a given cycle. -/
def closed (req : Option Nat) (eff : List (Nat × Effect)) : State := one fun x => { x with
  cur := some { Chunk.fresh Fetch.start 0 (some x.snap) 1 false false with count := 1, issued := 1, ended := true, requested := req, effects := eff } }

/-- ChunksCommit: a chunk that may ask and one that has asked, locally and of the arbiter, a command that has waited, a store at its home. -/
theorem wit_commit :
    (let x := (closed none []).tileAt 0
     x.oldest.isSome = true ∧ x.task.isSome = true ∧ x.cancelled = false ∧ x.bnd = none ∧
     ∀ c, x.oldest = some c → c.ended = true ∧ c.issued = c.count ∧ 0 < c.count ∧ c.requested = none ∧ x.settled c = true ∧
       max c.lastAt (c.lastS + 8) + 2 ≤ 100 ∧ x.waiteIn c = false) ∧
    (let s := closed (some 92) []
     (s.tileAt 0).oldest.isSome = true ∧ (∀ c, (s.tileAt 0).oldest = some c → c.shared = false ∧ c.effects = [] ∧ c.requested = some 92 ∧
       c.solo = false ∧ c.attempt ≠ 4 ∧ c.bnd = none ∧ c.exc = [] ∧ c.trap = none ∧ c.safept = none ∧ c.exits = false ∧ c.stores = []) ∧
     (s.tileAt 0).cancelled = false ∧ s.opsPending = false ∧
     Assoc.wf Tile.idle s.others = true ∧ s.soloTile = none ∧ (s.tileAt 0).older = none) ∧
    (let s := (closed (some 60) [(0, .ctl 2 0)]).modDie 0 fun d => { d with requests := [0] }
     s.grant = 0 ∧ s.grantAt ≤ s.now ∧ s.serving = none ∧ (s.die 0).requests.filter (fun t => s.requestedFor t 0) = [0] ∧ s.served < 16 ∧
     s.now < ({ s with grantAt := 69 } : State).grantAt + 32 ∧ ¬ s.now < ({ s with grantAt := 68 } : State).grantAt + 32 ∧ s.ackAt 0 = 112 ∧
     (0 : Nat) ∈ (s.die 0).requests.filter (fun t => s.requestedFor t 0) ∧ s.opsPending = false ∧ Alone { s with serving := some (0, 100) } ∧
     (s.tileAt 0).oldest.isSome = true ∧ ∀ x, (s.tileAt 0).oldest = some x → ∀ e ∈ x.effects, ∀ off v, e.2 ≠ .window off v) := by
  refine ⟨by decide, ⟨by decide, ?_, by decide⟩, by decide, by decide, by decide, by decide, by decide, by decide, by decide, by decide, by decide, by decide,
    alone_of (by decide), by decide, ?_⟩
  · intro c h
    have : c = { Chunk.fresh Fetch.start 0 (some base.tile.snap) 1 false false with count := 1, issued := 1, ended := true, requested := some 92, effects := [] } := (Option.some.inj h).symm
    subst this; decide
  · intro c h
    have : c.effects = [(0, .ctl 2 0)] := (congrArg Chunk.effects (Option.some.inj h)).symm
    rw [this]
    intro e he off v
    rw [List.mem_singleton.1 he]
    nofun

/-- A tile that is not tile 0 is as after reset. -/
theorem idle_of (s : State) (u : Nat) (h0 : s.tileId = 0) (ho : s.others = []) (h : u ≠ 0) : s.tileAt u = Tile.idle := by
  unfold State.tileAt
  rw [if_neg (by rw [h0]; exact h), ho]; rfl

/-- A transfer command of channel 0. -/
def sent (op : CmdOp) : Cmd := ⟨base.tile.ident 0, op, none, 0, 1, none, false, 0, 0, 0, 0, [], [], 92, 0, false, false, none⟩

/-- A committed store of one byte, in the slice of tile 0. -/
def stored : Store := ⟨⟨none, 8, 8⟩, [(sliceBase 0 + 8, 0xFF, 7)], none, none, 0, 0, 0, 0, 0, 0, false, false⟩

theorem wit_commit2 :
    (∀ u ∈ (closed (some 92) []).tiles, u ≠ 0 → ∀ d, ((closed (some 92) []).tileAt u).older = some d ∨ ((closed (some 92) []).tileAt u).cur = some d →
      d.conflicts [] = false) ∧
    (let s : State := { one fun x => { x with soloWant := true } with soloQueue := [0] }
     s.soloTile = none ∧ ∀ u ∈ s.tiles, (s.tileAt u).soloWant = true → u ∈ s.soloQueue) ∧
    ((one fun x => { x with released := [sent (.mzero true)] }).tileAt 0).released = [sent (.mzero true)] ∧ (sent (.mzero true)).issued + 8 ≤ base.now ∧
    (let s : State := { base with wb := [stored] }
     s.drainable = some 0 ∧ ∃ s1, ({ s with wb := s.wb.eraseIdx 0 } : State).arriveHome 0 0 (sliceBase 0 + 8) none false = .apply (sliceBase 0 + 8) s1) := by
  refine ⟨?_, ⟨rfl, ?_⟩, rfl, by decide, rfl, _, rfl⟩
  · intro u _ hu d h
    rw [idle_of _ u rfl rfl hu] at h
    rcases h with h | h <;> cases h
  · intro u _ h
    by_cases hu : u = 0
    · subst hu; exact List.mem_singleton.2 rfl
    · rw [idle_of _ u rfl rfl hu] at h
      cases h

/-- An entry of region 0 for any tile. -/
def entry : Entry := ⟨⟨0, 0, 0, 0, 0, 0, 0, 0, 0, 0xFFFF, Vector.replicate 5 0⟩, 0, 0, 0, 0, false, false, none, none, 0, none, none, false⟩

/-- Region 0 in memory, tile 0 without a task, and a die changed. -/
def vacant (f : Die → Die) : State := ({ rooted with tile := { rooted.tile with task := none } } : State).modDie 0 f

/-- The five tiles of partition 0, tile 0 failed. -/
def five : State := { one (fun x => { x with task := none, failed := true }) with
  host := { HostDie.reset with pmap := (List.range 5).map fun t => (t, BitVec.ofNat 32 (0x80000000 + t * 0x8000)) }, shrinks := [0] }

/-- TasksStartAndLeaveTheirTile: a queued entry with a free tile, a load whose time has come, an ended tile, a cancelled task, saves, a failed
tile. -/
theorem wit_tasks :
    (let s := vacant fun d => { d with heap := [entry] }
     (s.die 0).dispAt ≤ (s.die 0).cyc.toNat ∧
     (pickEntry 0 (s.die 0).floor (sortBy Entry.better (s.die 0).heap) (begun s)).1 = some (entry, 0) ∧ entry.upset = false ∧ alone s = true) ∧
    (∀ k ∈ [none, some ([], 0)],
     let s : State := { one (fun x => { x with loading := some 100, loadEntry := k }) with mem := rooted.mem }
     (s.tileAt 0).loading = some 100 ∧ (s.tileAt 0).task.isSome = true ∧ (s.tileAt 0).gate = .awake ∧ (s.tileAt 0).loadEntry = k ∧ 100 ≤ s.now ∧
     ({ s with now := 99 } : State).now < 100 ∧ alone s = true) ∧
    (let s := one fun x => { x with task := none, ended := true }
     (s.tileAt 0).cancelEnd = false ∧ s.tileQuiet321 0 = true) ∧
    (let s : State := { one (fun x => { x with task := x.task.map fun (k : Task) => { k with cancelled := true } }) with mem := rooted.mem }
     (s.tileAt 0).cancelEnd = true ∧ alone s = true) ∧
    (∀ why ∈ [SaveWhy.safept 0, .watchdog, .park 5 false, .mismatch],
      let s := ({ one (fun x => { x with saving := some why, bnd := none }) with mem := rooted.mem } : State).modDie 0 fun d => { d with slots := 1 }
      let x := s.tileAt 0
      x.saving = some why ∧ x.task.isSome = true ∧ x.cancelled = false ∧ x.gate = .awake ∧ x.windows = Vector.replicate 2 none ∧
      x.waitsLong = false ∧ x.saveReady why = true ∧ s.sentDone 0 = true ∧ 0 < (s.die 0).freeSlots ∧ alone s = true) ∧
    (let s := (({ one (fun x => { x with preq := some 0 }) with mem := Memory.write rooted.mem (sliceBase 0 + 16) [5] } : State).modDie 0 fun d => { d with slots := 1, cyc := 5 })
     ((begun s).watchdogDue 0 (begun s)).1 = true ∧ alone s = true) ∧
    (let s : State := { one (fun x => { x with task := none, failed := true }) with shrinks := [0] }
     (s.place 0).isSome = true ∧ (s.tileAt 0).failed = true ∧ s.stopped.contains 0 = false ∧ s.shrinks = [0] ∧ s.pinMoves = [] ∧ s.partCount 0 ≤ 4 ∧ alone s = true) ∧
    ((five.place 0) = some (0, 0) ∧ (five.tileAt 0).failed = true ∧ five.stopped.contains 0 = false ∧ 4 < five.partCount 0 ∧ five.shrinks = [0] ∧ five.pinMoves = [] ∧
     ((five.tileAt 0).task.isSome || (five.tileAt 0).ended) = false ∧
     (five.virt 0 (five.partCount 0 - 1)).getD 0 = 4 ∧ ((five.tileAt 4).task.isSome || (five.tileAt 4).ended) = false ∧
     alone five = true) := by
  refine ⟨by decide +kernel, by decide +kernel, by decide +kernel, by decide +kernel, by decide +kernel, by decide +kernel, by decide +kernel, ?_⟩
  decide +kernel

/-- A request with its identity, of no tile. -/
def whoIs : Ident := base.tile.ident 0

/-- QueuedEntriesAreKept: an operation in a die's queue, counters at a step, entries in the heap, a bucket and on their way. -/
theorem wit_queued :
    (let s := vacant fun d => { d with ops := [.cancel whoIs 0 none 0 0 none] }
     (s.die 0).ops = [.cancel whoIs 0 none 0 0 none] ∧ alone s = true) ∧
    (let s := vacant fun d => { d with ops := [.repri whoIs 0 0 5 0], heap := [entry] }
     (s.die 0).ops = [.repri whoIs 0 0 5 0] ∧ alone s = true) ∧
    (let x := (vacant fun d => { d with cyc := 4096 }).die 0
     x.ageStep < x.cyc.toNat / 4096 ∧ x.queuedNow = [] ∧ ¬ ((vacant fun d => { d with cyc := 4095 }).die 0).ageStep < 4095 / 4096) ∧
    (let s := vacant fun d => { d with cyc := 4096, heap := [entry] }
     ((s.die 0).queuedNow.filter fun e => e.enq < 1 * 4096) = [entry] ∧ alone s = true) ∧
    (let s := vacant fun d => { d with heap := [entry] }
     (s.die 0).queuedNow = [entry] ∧ alone s = true) ∧
    (let s := vacant fun d => { d with buckets := [(7, [entry])], refillAt := some 0 }
     let x := s.die 0
     x.heapCount < 65536 ∧ x.refillAt = some 0 ∧ 0 ≤ x.cyc.toNat ∧ Assoc.get [] x.topBucket x.buckets = [entry] ∧ alone s = true) ∧
    ((vacant fun d => { d with heap := [entry], seq := 0x40000001 }).die 0).ranks.getLast? = some 0 ∧
    ((vacant fun d => { d with heap := [entry], seq := 9 }).die 0).ranks.findIdx? (fun q => q == entry.seq) = some 0 ∧
    (let x := (vacant fun d => { d with cyc := 1024 }).die 0
     x.rebalStep < x.cyc.toNat / 1024 ∧ x.rebalEn = false) ∧
    (let s := vacant fun d => { d with cyc := 1024, rebalEn := true, heap := [entry] }
     (s.die 0).rebalStep < (s.die 0).cyc.toNat / 1024 ∧ (s.die 0).rebalEn = true ∧ alone s = true) ∧
    (let s := vacant fun d => { d with cyc := 9, moves := [(2, { entry with moving := some 9 })] }
     s.moveOver 2 = some (0, { entry with moving := some 9 }) ∧ alone s = true) := by
  decide +kernel

/-- Context 0 with one queue of sixteen slots, the packet of a given kind in its first slot. -/
def queued (kind : Byte) : State :=
  { base with
    host := { base.host with ctxbase := 0x40000001000 }
    mem := Memory.write (Memory.write (Memory.write (Memory.write rooted.mem (sliceBase 0 + 0x1008) [0, 0, 0, 0x80]) (sliceBase 0 + 0x1021) [0x20])
      (sliceBase 0 + 0x2000) [0, 0x30, 0, 0, 0, 0, 0, 0, 4, 1, 0, 0, 0, 0, 0, 0, 1]) (sliceBase 0 + 0x3017) [kind] }

/-- The packet of a kind is in turn, and no other device can be reached. -/
def turnsTo (kind : Byte) : Bool :=
  match (nextTurn (begun (queued kind))).1 with
  | some t => t.kind == kind.toNat && (match t.found with | .packet _ => alone (queued kind) | _ => false)
  | none => false

/-- PacketsAndMembersAreTaken: a packet of each kind in turn, a member for a class, a closed batch. -/
theorem wit_packets :
    (∀ k ∈ [1, 0x7F, 2, 3], turnsTo k = true) ∧
    (let s := vacant fun d => { d with chIn := [{ entry with blk := { entry.blk with bclass := 1 } }], ch := vset d.ch 0 { vget d.ch 0 with bsize := 32 } }
     (s.die 0).chIn.length = 1 ∧ alone s = true ∧ (vget ((s.modDie 0 Die.settle).die 0).ch 0).entersNow = true) ∧
    (let s := vacant fun d => { d with ch := vset d.ch 15 { vget d.ch 15 with closing := [entry], listbase := 0x1000 } }
     (vget (s.die 0).ch 15).closing ≠ [] ∧ (vget (s.die 0).ch 15).busy0 = false ∧ (vget (s.die 0).ch 15).busy1 = false ∧
     (∀ j, j < 15 → (vget (s.die 0).ch j).closing = []) ∧ alone s = true) := by
  decide +kernel

/-- A state whose handler is at word 8. -/
def handled (f : Tile → Tile) : State := one fun x =>
  f { x with regs := { x.regs with thandler := 8 }, snap := { x.snap with regs := { x.snap.regs with thandler := 8 } } }

/-- TrapsEnterTheirHandler: a precise trap to take, with and without a handler, a deferred fault in a chunk and in a lone word, an event. -/
theorem wit_traps :
    (∀ s ∈ [handled fun x => { x with trap := some ⟨0x42, 0, 0, 1, false⟩ },
        { one (fun x => { x with trap := some ⟨0x42, 0, 0, 1, false⟩ }) with mem := rooted.mem }],
      let x := s.tileAt 0
      x.trap = some ⟨0x42, 0, 0, 1, false⟩ ∧ x.runs = true ∧ x.older = none ∧ x.cur = none ∧ x.pendingS = [] ∧ x.loads = [] ∧ x.votes = [] ∧ alone s = true) ∧
    ((handled id).tileAt 0).snap.regs.inh = false ∧ ((handled id).tileAt 0).snap.regs.thandler ≠ 0 ∧ (base.tileAt 0).snap.regs.thandler = 0 ∧
    (let x := (one fun x => { x with deferred := some ⟨0, 0, causeMisalign, 1, none⟩, cur := some (Chunk.fresh Fetch.start 0 none 1 false true) }).tileAt 0
     x.task.isSome = true ∧ x.cancelled = false ∧ (x.chunkOf 0).isSome = true ∧ ∀ c, x.chunkOf 0 = some c → c.lone = true ∧ c.first = 0) ∧
    (∀ b ∈ [true, false], let s := handled fun x => { x with trunc := b, async := [⟨causePoisonData, 0, false⟩] }
     let x := s.tileAt 0
     x.runs = true ∧ x.cur = none ∧ x.nextAsync = some ⟨causePoisonData, 0, false⟩ ∧ x.regs.inh = false ∧ x.faulty = false ∧ x.framed = true ∧
     x.regs.thandler ≠ 0 ∧ alone s = true) := by
  refine ⟨by decide +kernel, by decide, by decide, by decide, ⟨by decide, by decide, by decide, ?_⟩, by decide +kernel⟩
  intro c h
  obtain rfl : Chunk.fresh Fetch.start 0 none 1 false true = c := Option.some.inj h
  decide

/-- Tile 0 with a command at the head of its matrix queue, started in a given cycle. -/
def engaged (op : CmdOp) (b : Option Nat) : State := { one fun x => { x with mqueue := [sent op], mstart := b } with now := 1000 }

/-- An MMA of BF16 codes in registers, one of E4M3 and E4M3 codes in a page that is absent. -/
def mmaRegs : CmdOp := .mma false (.regs 0) (.regs 8) 16 .bf16bf16 false true
def mmaLost : CmdOp := .mma false (.pad 0x10000000000 64) (.regs 8) 16 .e4m3e4m3 false true

/-- The accumulators of the tile agree with their check words. -/
theorem wit_agrees (a : Bool) : (accOf ((engaged (.mzero true) none).tileAt 0) a).agrees = true :=
  List.all_eq_true.2 fun e _ => by cases a <;> rfl

/-- EnginesRunTheirCommands, its matrix clauses. -/
theorem wit_matrixEngine :
    (∀ op ∈ [mmaRegs, mmaLost, .mzero true, .mtile false, .mdrain true 16 .f32 .rne, .mstore true (own 0) 256 (.ty .f32) .rne],
      (matrixEvent op 0).isSome = true ∧ (sent op).waitsCopy = false ∧ ((engaged op none).tileAt 0).mqueue = [sent op] ∧
      ((engaged op none).tileAt 0).mstart = none ∧ ((engaged op none).tileAt 0).scoreHeld (sent op) = false ∧
      ((engaged op none).tileAt 0).operandsDue (sent op) = false ∧ 0 + op.time ≤ 1000 ∧ 1000 < 999 + op.time ∧ (engaged op none).now = 1000 ∧
      (sent op).copyDone ≠ some false ∧ ((engaged op none).tileAt 0).windowOf op.acc = none ∧ (sent op).orphan = false ∧ op.acc < 2 ∧
      Assoc.wf Tile.idle (engaged op none).others = true) := by
  decide +kernel
theorem wit_mmaOn : ∃ y f s1, mmaOn ((engaged mmaRegs none).identAgent whoIs) (sent mmaRegs) (.regs 0) (.regs 8) 16 .bf16bf16 false true
      (accOf ((engaged mmaRegs none).tileAt 0) false) (begun (engaged mmaRegs none)) = (.ok (y, f), s1) :=
  ⟨_, _, _, rfl⟩
theorem wit_mmaFault : ∃ k v s1, mmaOn ((engaged mmaLost none).identAgent whoIs) (sent mmaLost) (.pad 0x10000000000 64) (.regs 8) 16 .e4m3e4m3 false true
      (accOf ((engaged mmaLost none).tileAt 0) false) (begun (engaged mmaLost none)) = (.error (.fault k v), s1) :=
  ⟨_, _, _, rfl⟩
theorem wit_enginesAlone (op : CmdOp) : alone (engaged op none) = true := show alone base = true by decide

/-- A copy of two bytes within the slice of tile 0, and a channel with it waiting or under way. -/
def copying : Cmd := sent (.copy (own 64) (own 0) 2 .plain)
def moving (pos : Nat) (flt : Option (BitVec 8 × Word)) : State :=
  one fun x => { x with xfers := vset x.xfers 3 (some ⟨copying, pos, 0, flt, 100, 0, false, []⟩) }

/-- EnginesRunTheirCommands, its copy clauses: a transfer that may start, a sector that lands, one that meets an absent page, the end. -/
theorem wit_copyEngine :
    (let s := one fun x => { x with chans := vset x.chans 3 [copying] }
     vget (s.tileAt 0).chans 3 = [copying] ∧ vget (s.tileAt 0).xfers 3 = none ∧ (s.tileAt 0).scoreHeld copying = false ∧ (s.tileAt 0).windowHeld copying = false) ∧
    (∃ f s1, (moving 0 none).xferOn (.chan 0 3) = some f ∧ f.fault = none ∧ f.pos < f.cmd.total ∧ f.waitFor ≤ 100 ∧
      landSector (.chan 0 3) f (begun (moving 0 none)) = (.ok (), s1) ∧ alone (moving 0 none) = true) ∧
    (∃ c v s1, landSector (.chan 0 3) ⟨sent (.copy 0x10000000000 (own 0) 2 .plain), 0, 0, none, 100, 0, false, []⟩ (begun (moving 0 none)) =
        (.error (.fault c v), s1)) ∧
    (let s := moving 2 none
     ∃ f, vget (s.tileAt 0).xfers 3 = some f ∧ f.over = true ∧ f.cmd.fut = false) :=
  ⟨by decide, ⟨_, _, rfl, rfl, by decide, by decide, rfl, by decide⟩, ⟨_, _, _, rfl⟩, ⟨_, rfl, rfl, rfl⟩⟩

/-- EnginesRunTheirCommands, its MSTORE clauses: a command that begins to write, and one of E2M1 rows (a sector each) whose next sector lands,
whose next is not yet due, and that has written its last. -/
def storesAt (k : Nat) (now : Nat) : State :=
  { engaged (.mstore true (own 0) 32 (.ty .e2m1) .rne) (some 0) with
    now := now, tile := { (engaged (.mstore true (own 0) 32 (.ty .e2m1) .rne) (some 0)).tile with mwrite := some (k, []) } }
theorem wit_mstore : let c := sent (.mstore true (own 0) 32 (.ty .e2m1) .rne)
    outRow (.ty .e2m1) / 32 = 1 ∧ ((engaged c.op (some 0)).tileAt 0).mwrite = none ∧ (∀ k n, ((storesAt k n).tileAt 0).mwrite = some (k, [])) ∧
    (storesAt 8 (c.op.time + 1)).now < 0 + c.op.time + 8 / 4 ∧ 0 + c.op.time + 8 / 4 ≤ (storesAt 8 1000).now ∧ 0 + c.op.time + 128 / 4 ≤ (storesAt 128 1000).now ∧
    (8 < 128 * 1) ∧ 128 * 1 ≤ 128 ∧ alone (storesAt 8 1000) = true ∧
    ∃ m s1, storeSector { (storesAt 8 1000).identAgent whoIs with keep := [] } c (.ty .e2m1) (own 256) (List.replicate 32 0) (begun (storesAt 8 1000)) =
      (.ok m, s1) :=
  ⟨by decide, rfl, fun _ _ => rfl, by decide, by decide, by decide, by decide, by decide, by decide, ⟨_, _, rfl⟩⟩

/-- TilesGateAndWake: an idle tile, one entering at either side of its first 32 tc, one gated, one ungating. -/
theorem wit_gates :
    (let s : State := { one (fun x => { x with task := none }) with now := 256 }
     let x := s.tileAt 0
     x.gate = .awake ∧ x.failed = false ∧ x.wake = false ∧ x.stir = false ∧ x.task = none ∧ x.inflight = [] ∧ x.votes = [] ∧ x.loads = [] ∧ x.drains = [] ∧
     x.activeCmds = [] ∧ x.ended = false ∧ x.idleSince + 256 ≤ s.now) ∧
    ((one fun x => { x with gate := .entering 52 true }).tileAt 0).gate = .entering 52 true ∧ 52 + 48 ≤ base.now ∧
    ((one fun x => { x with gate := .ungating 4 }).tileAt 0).gate = .ungating 4 ∧ 4 + 96 ≤ base.now ∧
    ((one fun x => { x with wake := true }).tileAt 0).wake = true ∧
    ((one fun x => { x with stir := true }).tileAt 0).wake = false ∧ ((one fun x => { x with stir := true }).tileAt 0).stir = true ∧ 100 < 69 + 32 ∧ 68 + 32 ≤ 100 ∧
    ((one fun x => { x with gate := .entering 69 false }).tileAt 0).gate = .entering 69 false ∧
    ((one fun x => { x with gate := .gated }).tileAt 0).gate = .gated := by
  decide

/-- A migration of die 0 from frame 0x10000 to frame 0x20000 of this device. -/
def migrating (f : Migration → Migration) : State := base.modDie 0 fun d => { d with mig := some (f ⟨0x10000, 0x20000, 0xFFF, 1, 1, 2, false, [3], [], none, []⟩) }

/-- UpkeepIsDone: a scrub that is due, a page that is walked, a parked task whose page comes in, migrations in each of their stages. -/
theorem wit_upkeep :
    ({ base with now := 2 ^ 27 } : State).scrubs < 2 ^ 27 / 2 ^ 27 ∧
    ((one fun x => { x with tlb := [] }).tileAt 0).task.isSome = true ∧ spaceOf (0x10000000000 : BitVec 52).toNat = .paged ∧
    findTlb (base.tileAt 0).tlb base.tile.ctxid 0x10000000000 = none ∧
    (migrating id).dueAgain = [] ∧ base.dueAgain = [] ∧ (∀ d, d < 4 → (base.die d).mig = none) ∧
    (((migrating id).die 0).mig.map (·.newState)) = some 2 ∧ ((migrating fun m => { m with newState := 3 }).die 0).mig.map (·.newState) = some 3 ∧
    ((migrating fun m => { m with newState := 3 }).die 0).mig.map (·.probes) = some none ∧
    ((migrating fun m => { m with ndev := 5, filled := true }).die 0).mig.map (·.filled) = some true ∧ (migrating id).host.hostReqs = [] ∧
    (∀ k, k < 0 → ((migrating id).die k).mig = none) ∧
    (∀ t ∈ [3], t < 512 ∧ (migrating fun m => { m with newState := 3, probes := some [3] }).tileQuiet t 0x10000 = true) := by
  decide

/-- A page of 2 MiB at 0x100_0000_0000 under tables in the first blocks of DRAM. -/
def tables : Memory :=
  let leaf : List Byte := [2, 3, 0x20, 0, 0, 0, 0, 0, 0, 0, 0, 0, 0xFF, 0x0F]
  Memory.write (Memory.write (Memory.write (Memory.write [] 0 [1, 0x20]) 0x2080 [1, 0x40]) 0x4000 [1, 0x60]) 0x6000 leaf
def paged : State := { base with mem := tables }

/-- UpkeepIsDone: a page that is walked, a parked task of an ACTIVE region whose page comes in. -/
theorem wit_walk :
    (let g := paged.tileAgent 0
     match (paged.walk g.die (paged.partCount g.part) g.who.root 0x10000000000).2 with | .leaf .. => True | _ => False) ∧
    (let s := vacant fun d => { d with parked := [⟨entry, 0, 0⟩] }
     let hit := fun (q : Parked) => q.page == 0 && q.entry.ctx == 0
     (∀ d, d < 4 → (s.die d).parked.filter hit = if d = 0 then [⟨entry, 0, 0⟩] else []) ∧
     (rcbState (s.agent 0 0) 0 (s.tiles.foldl (fun s t => s.modTile t fun x => x.sawPage 0 0)
       { s with dies := s.dies.map fun (d : Die) => { d with parked := d.parked.filter fun q => !hit q } })).1 = some 1) := by
  refine ⟨?_, by decide +kernel, by decide +kernel⟩
  show (match (paged.walk 0 1 0 0x10000000000).2 with | .leaf .. => True | _ => False)
  rw [show (paged.walk 0 1 0 0x10000000000).2 = .leaf 0x200302 0xFFF00000000 1 [0x6000, 0x4000, 0x2000, 0] by decide +kernel]
  trivial

/-- The package is owned by the host core. -/
def ownedBy (kind : Nat) : State := base.modHost fun h => { h with owner := BitVec.ofNat 64 (kind * 2 ^ 62), tenbase := 0x100000000 }

/-- RegistersAreWritten: the owner and others, windows at their first and last word, an image, a class to be disabled. -/
theorem wit_registers :
    ((ownedBy 1).byOf .host).kind ≠ 0 ∧ ((one fun x => { x with priv := false }).byOf (.task 0)).kind = 0 ∧
    Owns (ownedBy 1) .host ∧ Owns (ownedBy 2) .mc ∧ ¬ Owns (ownedBy 2) .host ∧ ¬ Owns base .host ∧
    spaceOf (0x800000000 : BitVec 52).toNat = .window 0 ∧ spaceOf (0x84FFFFFF8 : BitVec 52).toNat = .window 0x4FFFFFF8 ∧
    spaceOf (0x840000030 : BitVec 52).toNat = .window 0x40000030 ∧ spaceOf (0x840000038 : BitVec 52).toNat = .window 0x40000038 ∧
    plainRegs ≠ [] ∧ (23 : BitVec 5).toNat < 24 ∧ Assoc.wf [] ([] : Assoc (List Byte)) = true ∧ (List.replicate 32 (0 : Byte)).length = 32 ∧
    (ownedBy 1).host.tenbase.toNat % 8 = 0 ∧ (ownedBy 1).host.tenbase.toNat ≠ 0 ∧ isDram 0x1007FFFF8 = true ∧ 0x1007FFFF8 < 0x100000000 + 0x800000 ∧
    (let x := (base.modDie 3 fun d => { d with ch := vset d.ch 15 { vget d.ch 15 with pending := some 0 } }).die 3
     let c := vget x.ch 15
     c.pending = some 0 ∧ c.collecting = [] ∧ c.closing = [] ∧ c.backlog = [] ∧ c.closed = none ∧ x.chIn = []) := by
  unfold Owns; decide

/-- Context 0, which is VALID, over the page of `paged`, and function 0 with a window on it. -/
def bound : State := { paged with
  mem := Memory.write paged.mem (sliceBase 0 + 0x1008) [0, 0, 0, 0x80]
  host := { paged.host with ctxbase := 0x40000001000, vfmap := [(0, 0x10000000000)], rootPort := false } }

/-- HostCoresReachTheMap: addresses at the ends of memory, of the windows and in the holes, and a function with and without a context. -/
theorem wit_map :
    hostSide .host = true ∧ hostSide (.task 0) = false ∧ mapRefuses 0x60000000000 4 = true ∧ mapRefuses 0x60000000000 8 = false ∧
    mapSpot 0x60000000000 = .window 0 ∧ mapSpot 0x60050000000 = .hole ∧ mapRefuses 0x60050000000 8 = true ∧ mapSpot 0x6004FFFFFF8 = .window 0x4FFFFFF8 ∧ mapRefuses 0 8 = false ∧ mapSpot 0 = .memory ∧
    mapSpot 0x40000000008 = .memory ∧ mapRefuses 0x40000000008 8 = false ∧ mapSpot 0x60040000030 = .window 0x40000030 ∧ mapRefuses 0x40080000000 8 = true ∧
    mapRefuses 0x40000300000 8 = false ∧ mapSpot 0x40000300000 = .gap ∧ base.vfWindow 0 0 = none ∧
    bound.vfWindow 0 0x3FFFFF8 = some ({ bound.targetAgent 0 with who := { (bound.targetAgent 0).who with priv := false } }, 0x10003FFFFF8) := by
  decide +kernel
theorem wit_function : ∀ u ∈ [Use.rd, .wr], ((bound.vfPlaces { bound.targetAgent 0 with who := { (bound.targetAgent 0).who with priv := false } } u 0x10000000000
    (granules 0x10000000000 8)).2.toOption.isSome) = true := by
  decide +kernel

/-- A module on the fabric: port 0 is up, context 0 is VALID and takes physical accesses. -/
def net (f : HostDie → HostDie) : State := { base with
  mem := Memory.write [] (sliceBase 0 + 0x1008) [0, 0, 0, 0xA0]
  host := f { base.host with en := true, ports := vset base.host.ports 0 ⟨true, true, false, [], 0⟩, ctxbase := 0x40000001000 } }

/-- A packet of one body flit on its first hop, through port 0, and one that has come to its last. -/
def pack (kind ptr : Nat) (body : List Byte) : Packet := ⟨0 :: List.replicate 23 0, kind, 1, ptr, false, body.length / 32, 0, 0, 0, 0, body⟩

/-- LinksAndRoutersCarryPackets: frames, a header and its packet, packets at the router and at their last hop. -/
theorem wit_links :
    (∀ p ∈ [pack 1 0 (List.replicate 32 0)], p.hop.length = 24 ∧ p.kind < 64 ∧ p.hops < 32 ∧ p.ptr < 32 ∧ p.plen < 16) ∧
    (let k := vget (net id).host.ports 0
     (net id).host.en = true ∧ k.pen = true ∧ k.up = true) ∧ (List.replicate 256 (0 : Byte)).length = 256 ∧ base.host.en = false ∧
    (let h := (pack 1 0 (List.replicate 32 0)).header
     h.length = 32 ∧ (∃ x ∈ h, x ≠ 0) ∧ (List.replicate 32 (0 : Byte)).length = 32 * (packetOf h []).plen ∧ (0 : Nat) < 32 * (packetOf h []).plen) ∧
    0 < (pack 1 1 []).ptr ∧ (pack 1 1 []).ptr ≤ (pack 1 1 []).hop.length ∧ (vget base.host.ports 0).up = false ∧ (vget (net id).host.ports 0).up = true ∧
    (net id).needs = [] ∧ (net id).posts = [] ∧ (net id).hopCheck (pack 1 0 []) = none ∧ base.hopCheck (pack 1 0 []) = some causeRouteDown ∧
    (pack 10 1 []).dstdev = (net id).host.devid ∧ (pack 10 1 []).kind = 10 ∧ (pack 11 1 []).kind = 11 ∧ (pack 1 0 []).mc = false ∧
    ((net fun h => { h with hostReqs := [⟨7, 1, 0, 0, 0, [], 0, .ack, 0, 0, none, 0, 0⟩] }).findReq 512 7).isSome = true ∧
    (net id).hopCheck ⟨reverseHops (pack 1 1 []).hop 1, kRouteerr, 1, 0, true, 1, 0, 0, 0x200, 0, []⟩ = none := by
  decide +kernel

/-- The flit of a physical request of a context, of `n` bytes or an operation code, at an address of DRAM. -/
def phys (opc addr : Nat) (o : Word) : Flit := ⟨addr, 0, 0, true, opc, 0, o, 0, [], false⟩

theorem sound_net (f : HostDie → HostDie) : Sound (net f) := sound_of rfl rfl rfl rfl

/-- RequestsAreServedAndAnswered, its requests: bytes at the ends of a frame, atomics, node words of a context. -/
theorem wit_serve (f : From) :
    ((net id).ctxWord 0 1).getLsbD 29 = true ∧ (phys 4 0xFFFF 1).addr % 0x10000 + 1 ≤ 0x10000 ∧ isDram 0xFFFF = true ∧ fld (phys 4 0xFFFF 1).oper0 7 0 = 1 ∧
    (phys 3 0 0).opc < 4 ∧ 8 = 2 ^ (phys 3 0 0).opc ∧ (net id).homeAnswer 0xFFFF 0 false = .apply ∧
    (∃ s1, (net id).homed f (phys 4 0xFFFF 1) 0xFFFF none = .at_ 0xFFFF s1) ∧
    (∃ s1, (net id).homed f (phys 17 8 1) 8 none = .at_ 8 s1 ∧ Sound s1) ∧ (aopOf (17 % 16)).isSome = true ∧ (net id).undrained 8 8 = false ∧
    ((net id).requestPlace ⟨nodeAddr 0xFFFFF, 0, 0, false, 32, 0, 0, 0, [], false⟩ true (nodeAddr 0xFFFFF) 1 .wr).2 = .ok (.node 0xFFFFF) ∧
    ({ net id with nodes := [(0xFFFFF, ⟨0, 0⟩)] } : State).ownsNodes 0 0xFFFFF 1 = true ∧ nfieldOf 0 = some .n ∧
    (net id).undrained (nodeBase 0xFFFFF) 32 = false ∧ (⟨nodeAddr 0xFFFFF, 0, 0, false, 3, 0, 0, 0, [], false⟩ : Flit).walk.isSome = true ∧
    (net id).probeQuiet 0 0 0 = true := by
  refine ⟨by decide, by decide, by decide, by decide, by decide, by decide, by decide, ⟨_, rfl⟩, ⟨_, rfl, sound_net id⟩, by decide, by decide, rfl, by decide, by decide, by decide,
    by decide, by decide⟩

/-- A request that has come in, and an answer, a ROUTEERR and a timeout for a request of the host die. -/
def asked : RReq := ⟨7, 1, 0, 0, 0, [], 0, .ack, 0, 0, none, 0, 0⟩
def answering (kind : Nat) (body : List Byte) : State := net fun h => { h with inbound := [pack kind 1 body], hostReqs := [asked] }

theorem wit_answers :
    (∀ k ∈ [1, 2, 3, 4, 5, 6, 7, 10], (fabricEvent (pack k 1 [])).isSome = true) ∧
    (∀ g : Packet → Bool, (∀ q, g q = true ↔ fabricEvent q = some .fabricLoad) →
      (answering 1 []).takePacket g = some (pack 1 1 [], { answering 1 [] with host := { (answering 1 []).host with inbound := [] } })) ∧
    (let b : List Byte := List.replicate 12 0 ++ [7, 0, 0, 0, 0, 2] ++ List.replicate 14 0
     let s := answering kReply b
     (s.takePacket fun p => p.kind == kReply).isSome = true ∧ fld (BitVec.ofNat 64 (ofBytes ((b.drop 16).take 8))) 9 0 = 512 ∧
     (s.findReq 512 (seqOf b)).isSome = true ∧ s.findReq 512 (seqOf []) = none) ∧
    (let b : List Byte := List.replicate 10 0 ++ [4] ++ List.replicate 17 0 ++ [7, 0, 0, 0]
     let s := answering kRouteerr b
     (s.takePacket fun p => p.kind == kRouteerr).isSome = true ∧ fld (BitVec.ofNat 64 (ofBytes ((b.drop 8).take 8))) 18 9 = 512 ∧
     (s.findReq 512 (seqOf (b.drop 16))).isSome = true) ∧
    (let s := net fun h => { h with hostReqs := [asked], rtimeout := 1, cyc := 1 }
     s.overdue = [(512, asked)]) := by
  refine ⟨by decide, ?_, by decide +kernel, by decide +kernel, by decide +kernel⟩
  intro g hg
  have h : g (pack 1 1 []) = true := (hg _).2 rfl
  unfold State.takePacket
  simp [answering, net, h, State.modHost]

/-- A request of the Glaze engine that has just been queued, and one whose peers are asked. -/
def glazing (uns : Bool) (st : GlzStage) (l : List (BitVec 3 × Word × Word × Bool)) : Glaze := ⟨1, .tile 0 3, 0, 0, 0, uns, st, l, 0, 0, 0, none, none⟩
def vault (z : Glaze) : State :=
  ({ base with mem := Memory.write [] 0x3E [0xFF, 0x0F] } : State).modHost fun h => { h with glaze := [z], keysDerived := true }

/-- SealsPeersAndResetAreServed: requests at their first move, a peer that answers within QTIMEOUT. -/
theorem wit_seals :
    (let s := vault (glazing false .queued [])
     (s.glazeHeads.filter fun z => !z.uns && z.ready) = [glazing false .queued []] ∧ alone s = true ∧
     ((tried s (sealMove (glazing false .queued []) (begun s)).2).host.glaze == s.host.glaze) = false) ∧
    (let s := vault (glazing true .queued [])
     (s.glazeHeads.filter fun z => z.uns && z.ready) = [glazing true .queued []] ∧ alone s = true ∧
     ((tried s (unsealMove (glazing true .queued []) (begun s)).2).host.glaze == s.host.glaze) = false) ∧
    (∀ st ∈ [GlzStage.asking, .raising], let z := glazing false st [(3, 0, 0, true)]
      (vault z).host.glaze = [z] ∧ (4 : BitVec 3).toNat < 5 ∧ (∀ a ∈ z.answers, a.1 ≠ 4) ∧ (vault z).qpeer 0 4 = true ∧
      (vault z).host.cyc.toNat ≤ z.since + (vault z).host.qtimeout.toNat) := by
  refine ⟨by decide +kernel, by decide +kernel, fun st _ => ⟨rfl, by decide, fun a h => ?_, show (vault (glazing false .asking [])).qpeer 0 4 = true by decide +kernel, Nat.zero_le _⟩⟩
  rw [List.mem_singleton.1 h]; decide

/-- StepRunsTheDecodedWord: tile 0 in turn with the word of its program, a word in its queue, an input that is due. -/
theorem wit_step :
    (let x := base.focus 0
     base.dueInput = none ∧ base.host.failedStep = none ∧ base.turn = some (0 :: []) ∧ x.dutyHeld x.tileId = false ∧ x.tile.fetchOpen x.now = true ∧
     x.tile.thirdChunk = false ∧ x.tile.queue = [] ∧ x.tile.fetch.pc < x.tile.words ∧ x.tile.fetch.pc = 0) ∧
    (∃ w i, (base.focus 0).tile.fetched = .ok (w, i) ∧ (base.focus 0).tile.closeBefore i = none ∧
      (decode ((base.focus 0).tile.progWord 0) none = .ok i)) ∧ ((base.focus 0).deliverTurn.ready).isSome = true ∧
    ({ base with inputs := [(100, .wake 0)] } : State).inputs = [(100, .wake 0)] ∧ 100 ≤ base.now := by
  refine ⟨by decide, ⟨_, _, rfl, rfl, rfl⟩, by decide, rfl, by decide⟩

/-- DecodeOfEncodeIsTheInstruction, DecodedWordIsTheWordOfItsInstruction: a word alone, and one with the word after it. -/
theorem wit_encode : (Instr.popc Hdr.plain 3 1).wf = true ∧ encode (.popc Hdr.plain 3 1) = some 0x0002201820000000 ∧ (Instr.popc Hdr.plain 3 1).encNext = none ∧
    (let i := Instr.copym Hdr.plain ⟨12, 10, 20, 21, 0, 0, .plain, false⟩ ⟨false, .pad 10, .vreg 0, 6, .e4m3e4m3, true, false⟩
     i.wf = true ∧ encode i = some 0x000E20614A2A0000 ∧ i.encNext = some 0x000F002801828000) := by decide

/-- A task of region 0, with a program table of one entry, and a launch block of zeros. -/
def exiting : State := { word [(20, own 0x1040)] with
  mem := Memory.write rooted.mem (sliceBase 0 + 0x2008) [1]
  tile := { (word [(20, own 0x1040)]).tile with progbase := 0x2000 } }
theorem wit_exitLaunch : (blockOf (blockWords exiting (sliceBase 0 + 0x1040))).join = false ∧ alone exiting = true ∧ (exitAddr exiting 20 0).toNat % 64 = 0 ∧
    (checkBlock (exiting.tileAgent 0) exiting.tile.progbase (dieOf 0) (.exit (exiting.tile.ident 0).region.toNat) (exiting.reserved exiting.tile.ctxid)
      (blockOf (blockWords exiting (sliceBase 0 + 0x1040)))
      (marking (reading (lineKeys (sliceBase 0 + 0x1040) 64)) ((begun exiting).occupied .S 1 Hdr.plain))).1 = none := by
  decide +kernel

/-- ResultsLand: a word with the vote bit. -/
theorem wit_copies : let s := word [(1, 7), (2, 5)]
    let i := Instr.add ⟨true, 0, 0, false⟩ 3 1 2
    arith i s = some (⟨true, 0, 0, false⟩, 3, 1, 12) ∧ arith i (soon 1 s) = some (⟨true, 0, 0, false⟩, 3, 1, 12) ∧
    arith i (soon 2 s) = some (⟨true, 0, 0, false⟩, 3, 1, 12) ∧ guardOf ⟨true, 0, 0, false⟩ s.tile.regs = true := by decide

/-- ChunksCommit: a request that is being served, on either side of its acknowledgements, and one that is gone; a command whose digests
differ. -/
theorem wit_serving : (100 < 101) ∧ (100 ≤ 100) ∧ ¬ (1 : Nat) ∈ [0] ∧ base.tile.cur = none ∧
    ((one fun x => { x with released := [{ sent (.mzero true) with upset := true }] }).tileAt 0).released = [{ sent (.mzero true) with upset := true }] := by
  decide

/-- OperationsAreAppliedAtTheirHome: an arrival, and an address in neither range of the owner. -/
theorem wit_arrivals : ({ base with arrivals := [⟨0, false, whoIs, 0⟩] } : State).arrivals = [⟨0, false, whoIs, 0⟩] ∧ alone base = true ∧
    base.ownRange 8 = false := by decide

/-- LinksAndRoutersCarryPackets: good frames and a bad one, the first and the sixteenth. -/
theorem wit_tries : (vget (net id).host.ports 0).tries < 15 ∧
    15 ≤ (vget (net fun h => { h with ports := vset h.ports 0 ⟨true, true, false, [], 15⟩ }).host.ports 0).tries := by decide

/-- RequestsAreServedAndAnswered: a WALK in turn, operation codes outside the table, a PROBE of a quiet agent. -/
theorem wit_requests : ((begun (answering kWalk [])).takePacket fun q => q.kind == kWalk).isSome = true ∧ alone (answering kWalk []) = true ∧
    (∀ k ∈ [kLoad, kStore, kCas, kProbe, kCopydata], (phys 5 0 0).opcOk k = false) ∧ (phys 0x40 0 0).opcOk kFar = false ∧ (phys 0 0 0).opc = 0 := by
  decide

/-- StepRunsTheDecodedWord: an input that asks for nothing, and one for a module that a failed step holds. -/
theorem wit_input : (let s : State := { base with inputs := [(100, .wake 0)] }
      s.host.failedStep = none ∧ (∃ y, exec (.wake 0) { s with inputs := [] } = .next y ∧ y.needs.length ≤ s.needs.length ∧ y.stalled = false)) ∧
    ({ base with inputs := [(100, .wake 0)], host := { base.host with failedStep := some 2 } } : State).host.failedStep.isSome = true :=
  ⟨⟨rfl, _, rfl, Nat.le_refl _, rfl⟩, rfl⟩
/-- The invariant at reset, a state held in reset, a word whose reserved bits are set, a sample that is due. -/
theorem wit_rest : Memory.wf State.reset.mem = true ∧ ({ State.reset with host := { State.reset.host with failedStep := some 2 } } : State).inputs = [] ∧
    (State.reset.host.failedStep = none) ∧
    (let s := base.modHost fun h => { h with cyc := 4096 }
     s.host.psample < s.host.cyc.toNat / 4096 ∧ alone s = true) ∧ base.host.cyc.toNat / 4096 ≤ base.host.psample := by
  decide +kernel

/-- PopcCountsTheBits: a program that holds POPC with a bit of its B field set. -/
theorem wit_popc : (State.reset.placeWord 0x0002201820800000).tile.fetch.pc < (State.reset.placeWord 0x0002201820800000).tile.words ∧
    (State.reset.placeWord 0x0002201820800000).tile.progWord 0 =
      (0 : BitVec 11) ++ (0x11 : BitVec 8) ++ (0 : BitVec 4) ++ (3 : BitVec 6) ++ (1 : BitVec 6) ++ (1 : BitVec 6) ++ (0 : BitVec 23) := by decide

end Sys2Proof.Tests
end

section
/-! OWNERBRK: what the management controller's store does to OWNER, and the two ways by which it arrives (R278). -/

namespace Sys2Proof.Machine
open Sys2Proof

/-- The value of OWNER that names the management controller: OKIND 2, with ODEV and OTOKEN 0 (R277, R278). -/
def mcOwner : Word := BitVec.ofNat 64 (2 * 2 ^ 62)

/-- OKIND, ODEV and OTOKEN of that value. -/
theorem mcOwner_fields : mcOwner.extractLsb' 62 2 = 2 ∧ mcOwner.extractLsb' 50 12 = 0 ∧ mcOwner.extractLsb' 0 50 = 0 := by decide

/-- The store takes effect where OWNER still holds the value. -/
theorem State.ownerBreak_of_eq {s : State} {v : Word} (h : s.host.owner = v) :
    s.ownerBreak v = { s with host := { s.host with owner := mcOwner, ownerbrk := v } } :=
  if_pos (beq_iff_eq.2 h)

/-- Elsewhere the store is ignored. -/
theorem State.ownerBreak_of_ne {s : State} {v : Word} (h : s.host.owner ≠ v) : s.ownerBreak v = s :=
  if_neg fun e => h (beq_iff_eq.1 e)

/-- OWNERBRK in the map of a core (R281, R422). -/
theorem spaceOf_ownerbrk : spaceOf (0x8_4000_0038 : BitVec 52).toNat = .window ownerBrkOff := by decide

/-- In the windows the management controller's store to OWNERBRK comes before the owner check (R278, R279). -/
theorem State.windowWrite_ownerbrk {s : State} {w : By} (v : Word) (h : w.kind = 2) : s.windowWrite w ownerBrkOff v = s.ownerBreak v := by
  simp [State.windowWrite, h, ownerBrkOff, ownerOff]

/-- The instruction of that store. -/
theorem exec_ownerbrk (v : Word) (s : State) : exec (.ownerbrk v) s = .next (s.ownerBreak v) := rfl

/-- The same store as a write of the register at its address. -/
theorem exec_registerWrite_ownerbrk (v : Word) (s : State) : exec (.registerWrite 0x8_4000_0038 v .mc) s = .next (s.ownerBreak v) := by
  have hexec : exec (.registerWrite 0x8_4000_0038 v .mc) s = execRegisterWrite 0x8_4000_0038 v .mc s := rfl
  have hin : (ownerBrkOff % 8 == 0 && ownerBrkOff < 0x50000000) = true := by decide
  have hmc : (s.byOf .mc).kind = 2 := rfl
  rw [hexec, execRegisterWrite, spaceOf_ownerbrk]
  simp only [hin, if_true, State.windowWrite_ownerbrk v hmc]

end Sys2Proof.Machine

namespace Sys2Proof.Spec
open Sys2Proof Sys2Proof.Machine

/-- Settles O59: both ways of the store come to `State.ownerBreak`, which says what it does by whether OWNER holds the value. -/
theorem ownerbrkRecoversThePackage : Obligations.OwnerbrkRecoversThePackage := by
  intro v s e he
  have hexec : exec e s = .next (s.ownerBreak v) := by
    rcases List.mem_cons.1 he with rfl | he
    · exact exec_ownerbrk v s
    · obtain rfl := List.mem_singleton.1 he
      exact exec_registerWrite_ownerbrk v s
  rw [hexec]
  constructor
  · intro hholds
    rw [State.ownerBreak_of_eq hholds]
    exact ⟨_, rfl, rfl, mcOwner_fields⟩
  · intro hdiffers
    rw [State.ownerBreak_of_ne hdiffers]

end Sys2Proof.Spec
end

section
/-! A word of the S engine that sends one result: its occupancy, its landing or its three copies, and nothing else (R68, R74, R166). -/

namespace Sys2Proof.Spec
open Sys2Proof Sys2Proof.Machine

/-- What an issue keeps, and the occupancies, are what `TileQuiet` lets it change. -/
theorem tileQuiet_of_issueOnly {g : Chunk → Chunk} {x y : Tile} {o u : Occ} (hissue : Tile.issueOnly { x with occ := o, ends := u } y)
    (hchunks : y.cur.map g = x.cur.map g ∧ y.older.map g = x.older.map g) : TileQuiet g x y := by
  refine ⟨?_, hchunks⟩
  unfold Tile.issueOnly at hissue
  rw [hissue]

/-- The counts of an issue change nothing that `Quiet` watches. -/
theorem quiet_wordIssued (s : State) (e : Eng) (n occ k : Nat) (h : Hdr) :
    Quiet s ((s.occupied e occ h).onTile fun t => t.wordIssued n e k) := by
  let x := (s.occupied e occ h).tile
  have htile : TileQuiet bare s.tile (x.wordIssued n e k) :=
    tileQuiet_of_issueOnly (x.wordIssued_issueOnly n e k) (x.wordIssued_keeps n e k bare (fun _ _ _ _ => rfl) fun _ _ => rfl)
  have hread : ∀ a, ((s.occupied e occ h).onTile fun t => t.wordIssued n e k).coreRead a 1 = s.coreRead a 1 := fun a =>
    congrArg (fun b => readOver s.mem (s.wb ++ b) a 1) (x.wordIssued_buffered n e k)
  exact ⟨rfl, htile, fun _ => rfl, hread⟩

/-- The occupancies after an issue. -/
theorem issuedOn_wordIssued (s : State) (e : Eng) (occ k : Nat) (h : Hdr) :
    IssuedOn e (span h occ) s ((s.occupied e occ h).onTile fun t => t.wordIssued s.now e k) := by
  let x := (s.occupied e occ h).tile
  have hocc : (x.wordIssued s.now e k).occ = s.tile.occ.set e (s.now + span h occ) := (x.wordIssued_flight s.now e k).1
  refine ⟨x.wordIssued_lastIssue s.now e k, ?_, fun f hf => ?_⟩
  · show (x.wordIssued s.now e k).occ.get e = _
    rw [hocc, Occ.get_set, if_pos rfl]
  · show (x.wordIssued s.now e k).occ.get f = _
    rw [hocc, Occ.get_set, if_neg hf.symm]

/-- An issue with the results `l` on their way does nothing else. -/
theorem sends_of_sending {h : Hdr} {l : List Landing} {vs : List Vote} (e : Eng) (occ k : Nat) (s : State) (hvs : Copied h 32 l vs) :
    Sends h e (span h occ) l id s ((sending h l vs (s.occupied e occ h)).onTile fun t => t.wordIssued s.now e k) :=
  ⟨vs, hvs, issuedOn_wordIssued (sending h l vs s) e occ k h, quiet_wordIssued (sending h l vs s) e s.now occ k h⟩

/-- One result without the vote bit is on its way. -/
theorem result_eq_sending {h : Hdr} (hv : h.v = false) (s : State) (occ lat : Nat) (d : Dest) :
    s.result h occ lat d 0 = sending h [⟨lastIssue s h occ + lat, s.tile.iw.seq, d, 0⟩] [] s := by
  rw [State.result_plain]
  simp [sending, lastIssue, hv]

/-- With the vote bit its three issues await their vote (R74, R248). -/
theorem thrice_result_eq_sending {h : Hdr} (hv : h.v = true) (s : State) (body : State → Act) (occ lat : Nat) (d : Dest) :
    ∃ vs, Copied h 32 [⟨lastIssue s h occ + lat, s.tile.iw.seq, d, 0⟩] vs ∧
      s.thrice (s.result h occ lat d 0) body occ = sending h [⟨lastIssue s h occ + lat, s.tile.iw.seq, d, 0⟩] vs s := by
  let l : Landing := ⟨lastIssue s h occ + lat, s.tile.iw.seq, d, 0⟩
  refine ⟨threeCopies [⟨l, l, l, 32⟩] (s.copyAt body occ) (s.copyAt body (2 * occ)), ?_, ?_⟩
  · simp [Copied, threeCopies, hv, l]
  · rw [State.result_plain]
    simp [State.thrice, State.onTile, sending, lastIssue, hv, l]

/-- A word whose effect is one result of fixed latency sends it, and does nothing else. -/
theorem issueW_sends {e : Eng} {occ k lat : Nat} {h : Hdr} {d : Dest} {body : State → Act} {s : State} (hg : guardOf h s.tile.regs = true)
    (hb : body (s.occupied e occ h) = .done ((s.occupied e occ h).result h occ lat d 0)) :
    ∃ t, issueW e occ k h body s = .next t ∧ Sends h e (span h occ) [⟨lastIssue s h occ + lat, s.tile.iw.seq, d, 0⟩] id s t := by
  refine ⟨_, issueW_done hg hb, ?_⟩
  cases hv : h.v with
  | false =>
    have hone := result_eq_sending hv (s.occupied e occ h) occ lat d
    rw [if_neg Bool.false_ne_true, hone]
    exact sends_of_sending e occ k s (by simp [Copied, hv])
  | true =>
    obtain ⟨vs, hvs, hthree⟩ := thrice_result_eq_sending hv (s.occupied e occ h) body occ lat d
    rw [if_pos rfl, hthree]
    exact sends_of_sending e occ k s hvs

/-- A word of S whose result lands in s[d]: the value is that of its rule in the state where it issues. -/
theorem scalarWord_sends {h : Hdr} {d : SReg} {lat : Nat} {f : State → Word} {s : State} (hg : guardOf h s.tile.regs = true) :
    ∃ t, scalarWord h d lat f s = .next t ∧
      Sends h .S (span h 1) [⟨lastIssue s h 1 + lat, s.tile.iw.seq, .sreg d (f (s.occupied .S 1 h)), 0⟩] id s t :=
  issueW_sends (k := 1) (body := fun s => .done (s.result h 1 lat (.sreg d (f s)) 0)) hg rfl

end Sys2Proof.Spec
end

section
/-! A word in format A and its fields (R164, R168). -/

namespace Sys2Proof
open Sys2Proof.Machine

/-- The word of a header, an opcode and the fields d, a, b and F of format A. -/
def formatA (h : Hdr) (op : BitVec 8) (d a b : BitVec 6) (f : BitVec 23) : Word :=
  BitVec.ofBool h.v ++ h.d ++ op ++ h.pr ++ BitVec.ofBool h.pn ++ d ++ a ++ b ++ f

section
variable (h : Hdr) (op : BitVec 8) (d a b : BitVec 6) (f : BitVec 23)

/-- The fields of more than one bit, from the top down: each stands above those that follow it. -/
theorem extractLsb'_formatA :
    (formatA h op d a b f).extractLsb' 53 10 = h.d ∧ (formatA h op d a b f).extractLsb' 45 8 = op ∧
      (formatA h op d a b f).extractLsb' 42 3 = h.pr ∧ (formatA h op d a b f).extractLsb' 35 6 = d ∧
      (formatA h op d a b f).extractLsb' 29 6 = a ∧ (formatA h op d a b f).extractLsb' 23 6 = b ∧
      (formatA h op d a b f).extractLsb' 0 23 = f := by
  unfold formatA
  refine ⟨?_, ?_, ?_, ?_, ?_, ?_, ?_⟩
  all_goals
    repeat rw [BitVec.extractLsb'_append_eq_of_le (by decide)]
    exact BitVec.extractLsb'_append_eq_right

/-- V and PN. -/
theorem getLsbD_formatA : (formatA h op d a b f).getLsbD 63 = h.v ∧ (formatA h op d a b f).getLsbD 41 = h.pn := by
  unfold formatA
  constructor
  all_goals
    repeat rw [BitVec.getLsbD_append]
    simp

theorem opOf_formatA : opOf (formatA h op d a b f) = op := by
  obtain ⟨-, hop, -⟩ := extractLsb'_formatA h op d a b f
  exact hop

theorem ofWord_formatA : Hdr.ofWord (formatA h op d a b f) = h := by
  obtain ⟨hd, -, hpr, -⟩ := extractLsb'_formatA h op d a b f
  obtain ⟨hv, hpn⟩ := getLsbD_formatA h op d a b f
  rw [Hdr.ofWord, hv, hd, hpr, hpn]

/-- A field of the payload is that field of the word. -/
theorem pf_payloadOf (w : Word) {lo len : Nat} (hle : lo + len ≤ 41) : pf (payloadOf w) lo len = w.extractLsb' lo len := by
  unfold pf payloadOf
  rw [BitVec.extractLsb'_extractLsb'_of_le hle]

/-- The fields of the payload. -/
theorem pf_formatA :
    pf (payloadOf (formatA h op d a b f)) 35 6 = d ∧ pf (payloadOf (formatA h op d a b f)) 29 6 = a ∧
      pf (payloadOf (formatA h op d a b f)) 23 6 = b ∧ pf (payloadOf (formatA h op d a b f)) 0 23 = f := by
  obtain ⟨-, -, -, hd, ha, hb, hf⟩ := extractLsb'_formatA h op d a b f
  simp only [pf_payloadOf _ (show 35 + 6 ≤ 41 by decide), pf_payloadOf _ (show 29 + 6 ≤ 41 by decide),
    pf_payloadOf _ (show 23 + 6 ≤ 41 by decide), pf_payloadOf _ (show 0 + 23 ≤ 41 by decide)]
  exact ⟨hd, ha, hb, hf⟩

end

/-- The reserved bits of a word of format A without b and F are these two fields. -/
theorem pf_bf_eq_zero_iff (p : BitVec 41) : pf p 0 29 = 0 ↔ pf p 23 6 = 0 ∧ pf p 0 23 = 0 := by
  simp only [← BitVec.toNat_inj, pf, BitVec.extractLsb'_toNat, BitVec.ofNat_eq_ofNat, BitVec.toNat_ofNat, Nat.shiftRight_eq_div_pow,
    Nat.zero_mod, Nat.pow_zero, Nat.div_one]
  omega

end Sys2Proof
end

section
/-! POPC: the count, the word and its encoding faults (R357). -/

namespace Sys2Proof.Machine
open Sys2Proof

/-- The count over the bits below `k` is the number of them that are set. -/
theorem popFrom_eq_length_filter (x : Word) (k : Nat) : popFrom x k = ((List.range k).filter fun i => x.getLsbD i).length := by
  induction k with
  | zero => rfl
  | succ k ih => cases hx : x.getLsbD k <;> simp [popFrom, ih, List.range_succ, List.filter_append, hx, Nat.add_comm]

/-- No more bits are set than there are. -/
theorem popFrom_le (x : Word) (k : Nat) : popFrom x k ≤ k := by
  rw [popFrom_eq_length_filter]
  exact Nat.le_trans (List.length_filter_le _ _) (Nat.le_of_eq List.length_range)

/-- The result of POPC holds the count. -/
theorem popc_toNat (x : Word) : (BitVec.ofNat 64 (popFrom x 64)).toNat = popFrom x 64 := by
  rw [BitVec.toNat_ofNat]
  exact Nat.mod_eq_of_lt (Nat.lt_of_le_of_lt (popFrom_le x 64) (by decide))

/-- POPC may carry V and any guard, and names no operand that it may not. -/
theorem problem_popc (h : Hdr) (d a : SReg) : (Instr.popc h d a).problem = none := by
  simp [Instr.problem, Instr.hdr, Instr.mayVote, Instr.mustBeUnguarded, Instr.operandProblem]

/-- A word whose reserved fields alone decide, of an instruction that is well-formed for every operand. -/
theorem decode_of_okIf {w : Word} {next : Option Word} {c : Bool} {i : Instr} (hfields : decodeFields w next = okIf c i)
    (hwf : i.problem = none) : decode w next = okIf c i := by
  unfold decode
  rw [hfields]
  cases c with
  | false => rfl
  | true => simp only [okIf, if_true, hwf]

/-- A word of opcode 0x11, by its fields. -/
theorem decode_of_opOf_popc {w : Word} (hop : opOf w = 0x11) (next : Option Word) :
    decode w next = okIf (pf (payloadOf w) 0 29 == 0) (.popc (Hdr.ofWord w) (pf (payloadOf w) 35 6) (pf (payloadOf w) 29 6)) := by
  refine decode_of_okIf ?_ (problem_popc _ _ _)
  unfold decodeFields
  rw [hop]
  rfl

/-- The word of POPC in format A: b and F are reserved (R357). -/
theorem decode_formatA_popc (h : Hdr) (d a b : BitVec 6) (f : BitVec 23) (next : Option Word) :
    decode (formatA h 0x11 d a b f) next = if b = 0 ∧ f = 0 then .ok (.popc h d a) else .error .reserved := by
  obtain ⟨hd, ha, hb, hf⟩ := pf_formatA h 0x11 d a b f
  rw [decode_of_opOf_popc (opOf_formatA h 0x11 d a b f)]
  simp only [okIf, beq_iff_eq, pf_bf_eq_zero_iff, ofWord_formatA, hd, ha, hb, hf]

/-- A word that does not decode, whatever follows it, is what fetch finds there as a fault (R172, R174). -/
theorem Tile.fetched_of_decode_error {x : Tile} {e : Reject} (hpc : x.fetch.pc < x.words)
    (hbad : ∀ next, decode (x.progWord x.fetch.pc) next = .error e) : x.fetched = .error (x.progWord x.fetch.pc) := by
  unfold Tile.fetched
  simp only [if_neg (Nat.not_le.2 hpc), hbad, ite_self]

end Sys2Proof.Machine

namespace Sys2Proof.Spec
open Sys2Proof Sys2Proof.Machine

/-- Settles O58: POPC is a scalar word whose value is `popFrom`, the count of the bits set, and its word is one of format A with b and F
reserved. -/
theorem popcCountsTheBits : Obligations.PopcCountsTheBits := by
  refine ⟨fun h d a s hg => ?counts, fun v dl pr pn d a b f next => ?word, ?known, fun x d a b f hpc hw hbf => ?fault⟩
  case counts =>
    obtain ⟨t, hexec, hsends⟩ := scalarWord_sends (f := fun s => BitVec.ofNat 64 (popFrom (s.sr a) 64)) (d := d) (lat := 1) hg
    have hval := popc_toNat (sx s a)
    exact ⟨t, hexec, _, hval.trans (popFrom_eq_length_filter _ 64), Nat.le_trans (Nat.le_of_eq hval) (popFrom_le _ 64), hsends⟩
  case word => exact decode_formatA_popc ⟨v, dl, pr, pn⟩ d a b f next
  case known => exact decode_formatA_popc Hdr.plain 3 1 0 0 none
  case fault =>
    have hplain : x.progWord x.fetch.pc = formatA Hdr.plain 0x11 d a b f := hw
    refine x.fetched_of_decode_error (e := .reserved) hpc fun next => ?_
    rw [hplain, decode_formatA_popc, if_neg fun hz => hbf.elim (· hz.1) (· hz.2)]

end Sys2Proof.Spec
end
